-- ==== Sys2Proof/Word.lean ====
section
/-! DEFINITION. The word type of the FQ4160: the byte of its frames (10.7.2, 10.7.7).

Numbers the manual counts with (clock minutes, charge units, record numbers) are `Nat`; only what the
manual treats as bits on a line is a bit vector. -/

namespace Sys2Proof

/-- One byte of a host frame or of a riser frame. -/
abbrev Byte := BitVec 8

end Sys2Proof
end

