-- ==== Sys2Proof/Config.lean ====
section
/-! DEFINITION. What the part fixes (capacities and limits, each with its rule) and the FREE VALUES: the
opaque constants with no body, standing where the manual states no value or no order. -/

namespace Sys2Proof.Config

/-- The greatest clock minute (conventions; R168). -/
def maxMinute : Nat := 4294967295
/-- The greatest value of a lifetime or impressions counter (R67, R129). -/
def maxCount32 : Nat := 4294967295
/-- The ceiling of every account's used and reserved (R29). -/
def maxAccount : Nat := 2000000000
/-- The clamp of one reported count (R27). -/
def maxReportedCount : Nat := 1000000
/-- Tenant records (R1). -/
def tenantCount : Nat := 32
/-- User records (R4). -/
def userCount : Nat := 4096
/-- Job slots (R45). -/
def slotCount : Nat := 1024
/-- Station places (R66). -/
def stationCount : Nat := 96
/-- The release-queue entry pool (R70). -/
def poolSize : Nat := 512
/-- The reorder list's capacity (section 7.4). -/
def reorderCapacity : Nat := 64
/-- The callout table's capacity (R156). -/
def calloutCapacity : Nat := 48
/-- The notice queue's capacity (R184). -/
def noticeCapacity : Nat := 64
/-- The request queue's capacity (R182). -/
def requestCapacity : Nat := 8
/-- A command list's capacity (R119). -/
def commandCapacity : Nat := 4
/-- The greatest body length of a request frame (R181). -/
def maxBodyLength : Nat := 1020
/-- The sync byte of a host frame, C5h (R180). -/
def syncByte : Byte := 0xC5#8
/-- The part code that PART INFO gives (R187). -/
def partCode : Nat := 4160
/-- The revision that PART INFO gives (R187). -/
def revision : Nat := 2

/-- FREE VALUE (assumption 2): the part's choice where the manual says several things come about without any
order among them (R169, R173) or names several and gives no order (R82, R129).  Nothing constrains it. -/
opaque choice : Nat → Nat

/-- FREE VALUE (assumption 3): the bytes a reply or notice body carries in the place of a field of `width`
bytes that is absent; R190 encodes present fields only. -/
opaque absentField (width : Nat) : List Byte

/-- FREE VALUE (assumption 3): the byte that stands at place `n` of a SHOW whose field there is not carried; 10.7.7
fixes that there is one byte at each place. -/
opaque absentByte (n : Nat) : Byte

/-- FREE VALUE (assumption 4): the byte codes of enumerations that R190's table does not list: the
`n`-th member of enumeration `e` (the members counted in the order of the rule that names them). -/
opaque unlistedCode (e n : Nat) : Byte

end Sys2Proof.Config
end

