-- ==== Sys2Proof/Syntax.lean ====
section
/-! DEFINITION. The commands of the FQ4160: one constructor of `Instr` for each row of
spec/opcode_table.json (LAWS.json maps them).

Three kinds of operand occur.  A reset or power step carries the levels of the rate straps.  A line event
carries what arrives on the line (the bytes on RXD, or the fields of an adapter's reply, as bit vectors of
the widths of 10.7.7).  A deadline or expiry step names the record whose deadline falls due.  The steps
that carry out a host request (PUT_TENANT .. RESTART_ALL) have no operand: the request they carry out is
the OLDEST QUEUED one (R182), whose role, tenant and body stand in the request queue (assumption 5). -/

namespace Sys2Proof

/-- The six fault classes (R147). -/
inductive FaultClass where
  | jam | door | paper | toner | service | silent
  deriving DecidableEq, Repr

/-- What every reply of an adapter carries whatever its event (10.7.7): the riser whose line it arrives
on, the drop address it names, its sequence bit and its command taken indication. -/
structure ReplyHeader where
  riser : Fin 4
  drop  : Nat
  seq   : Bool
  taken : Bool
  deriving DecidableEq, Repr

/-- The outcomes of a sweep trial's one poll that R125 tells apart. -/
inductive TrialReply where
  /-- the reply window ends without a good reply -/
  | miss
  /-- a good reply whose event is not HELLO -/
  | other
  /-- a good HELLO: its sequence bit and the fields of its body as carried -/
  | hello (seq : Bool) (model : BitVec 16) (caps sizes : Byte)
  deriving DecidableEq, Repr

/-- The commands (steps) of the part, in the order of the table. -/
inductive Instr where
  | powerOn (straps : BitVec 3)
  | resetAsserted
  | resetReleased (straps : BitVec 3)
  | requestFrame (bytes : List Byte)
  | requestQueueFull
  | unknownRequest
  | badLength
  | putTenant
  | getTenant
  | removeTenant
  | enrolUser
  | amendUser
  | suspendUser
  | reinstateUser
  | removeUser
  | getUser
  | findBadge
  | adjustAccount
  | setRates
  | holdJob
  | commitSpool
  | cancelJob
  | spoolFault
  | getJob
  | listJobs
  | setPartitions
  | probeRelease
  | setReleaseTiming
  | admitStation
  | parkStation
  | unparkStation
  | setStation
  | retireStation
  | getStation
  | sweepRiser
  | linkReset
  | getConsumable
  | listReorders
  | approveReorder
  | placeReorder
  | cancelReorder
  | ackCallout
  | closeCallout
  | setCalloutPolicy
  | listCallouts
  | readClock
  | setClock
  | setInterval
  | readInterval
  | partInfo
  | fetchNotice
  | setNoticeMask
  | restartJobs
  | restartAll
  | poll (riser : Fin 4)
  | emptyCycle (riser : Fin 4)
  | sweepTrial (riser : Fin 4) (reply : TrialReply)
  | miss (riser : Fin 4)
  | idle (h : ReplyHeader)
  | hello (h : ReplyHeader) (model : BitVec 16) (caps sizes : Byte)
  | badge (h : ReplyHeader) (number : BitVec 32)
  | jobStart (h : ReplyHeader) (token : BitVec 16)
  | jobProgress (h : ReplyHeader) (token : BitVec 16) (im ic hs : BitVec 24)
  | jobEnd (h : ReplyHeader) (token : BitVec 16) (im ic hs : BitVec 24)
  | jobAbort (h : ReplyHeader) (token : BitVec 16) (im ic hs : BitVec 24) (reason : Byte)
  | levels (h : ReplyHeader) (k c m y : Byte)
  | faultSet (h : ReplyHeader) (cls colours : Byte)
  | faultClear (h : ReplyHeader) (cls colours : Byte)
  | pause (h : ReplyHeader)
  | resume (h : ReplyHeader)
  | eventDiscarded (h : ReplyHeader)
  | holdDeadline (slot : Nat)
  | commitDeadline (slot : Nat)
  | startDeadline (slot : Nat)
  | abandonDeadline (slot : Nat)
  | faultDueMinute (station : Nat) (cls : FaultClass)
  | tierDeadline (callout : Nat)
  | reorderDueMinute (reorder : Nat)
  | clockAdvance
  | intervalExpired (counter : Fin 4)
  deriving DecidableEq, Repr

end Sys2Proof
end

