-- ==== Sys2Proof/Decode.lean ====
section
/-! DEFINITION. Words and commands.  spec/opcode_table.json gives no row any bits, so no word spells a command.
The replies of a riser's line have a byte layout (10.7.7), and `linkReply` reads which command of the table the
bytes that arrive on a riser's line stand for. -/

namespace Sys2Proof

/-- The command that a word spells by the table's bits.  The table gives no row any bits, so no word spells one. -/
def decodeTableWord (_nbits _w : Nat) : Option Instr := none

/-- A number sent most significant byte first, in `w` bits (10.7.7). -/
def wordOfBytes (w : Nat) (bs : List Byte) : BitVec w := BitVec.ofNat w (bs.foldl (fun n b => n * 256 + b.toNat) 0)

/-- The fields of an event's body by its code (10.7.7): an unknown code, or a body of another length, is an event
that is accepted and discarded (R110, R114).  DESIGN CHOICE (assumption 31): so is an IDLE whose body is not empty, as
a sequenced event after which the visit may go on, while R113 and R114 speak of IDLE as ending the visit and leaving
the accepted bit. -/
def linkEvent (h : ReplyHeader) (code : Byte) (body : List Byte) : Instr :=
  match code.toNat, body with
  | 0x00, [] => .idle h
  | 0x01, [m1, m0, caps, sizes] => .hello h (wordOfBytes 16 [m1, m0]) caps sizes
  | 0x02, [b3, b2, b1, b0] => .badge h (wordOfBytes 32 [b3, b2, b1, b0])
  | 0x03, [t1, t0] => .jobStart h (wordOfBytes 16 [t1, t0])
  | 0x04, [t1, t0, i2, i1, i0, c2, c1, c0, h2, h1, h0] =>
    .jobProgress h (wordOfBytes 16 [t1, t0]) (wordOfBytes 24 [i2, i1, i0]) (wordOfBytes 24 [c2, c1, c0])
      (wordOfBytes 24 [h2, h1, h0])
  | 0x05, [t1, t0, i2, i1, i0, c2, c1, c0, h2, h1, h0] =>
    .jobEnd h (wordOfBytes 16 [t1, t0]) (wordOfBytes 24 [i2, i1, i0]) (wordOfBytes 24 [c2, c1, c0])
      (wordOfBytes 24 [h2, h1, h0])
  | 0x06, [t1, t0, i2, i1, i0, c2, c1, c0, h2, h1, h0, reason] =>
    .jobAbort h (wordOfBytes 16 [t1, t0]) (wordOfBytes 24 [i2, i1, i0]) (wordOfBytes 24 [c2, c1, c0])
      (wordOfBytes 24 [h2, h1, h0]) reason
  | 0x07, [k, c, m, y] => .levels h k c m y
  | 0x08, [cls, colours] => .faultSet h cls colours
  | 0x09, [cls, colours] => .faultClear h cls colours
  | 0x0A, [] => .pause h
  | 0x0B, [] => .resume h
  | _, _ => .eventDiscarded h

/-- The command that the bytes of a reply window on a riser stand for (R110): a complete frame whose bytes sum to 0
modulo 256 is a reply, and anything else is a miss.  Whether it names the address polled is `exec`'s to see.  DESIGN
CHOICE (assumption 34): bits 7 to 2 of the control byte, of which 10.7.7 names none, are not read; and a window in which
bytes follow the check byte holds no good reply. -/
def linkReply (riser : Fin 4) (bs : List Byte) : Instr :=
  match bs with
  | drop :: control :: code :: len :: rest =>
    if rest.length = len.toNat + 1 && bs.foldl (· + ·) 0#8 = 0#8 then
      linkEvent ⟨riser, drop.toNat, control.getLsbD 0, control.getLsbD 1⟩ code (rest.take len.toNat)
    else .miss riser
  | _ => .miss riser

end Sys2Proof
end

