-- ==== Sys2Proof/Machine/Table.lean ====
section
/-! DEFINITION. Sparse tables of numbered records: the one form in which the part's tables are held.

A table lists the records that are present as (number, record) pairs in strictly rising order of number; an
unlisted number is an absent or empty record, a free slot or an empty place. -/

namespace Sys2Proof.Machine

/-- A sparse table of records by number. -/
abbrev Table (α : Type) := List (Nat × α)

/-- The record of number `n`, if it is present. -/
def Table.fetch {α : Type} : Table α → Nat → Option α
  | [], _ => none
  | (k, v) :: t, n => if n = k then some v else Table.fetch t n

/-- Whether number `n` is present. -/
def Table.has {α : Type} (t : Table α) (n : Nat) : Bool := (t.fetch n).isSome

/-- Write the record of number `n`, keeping the order. -/
def Table.put {α : Type} : Table α → Nat → α → Table α
  | [], n, a => [(n, a)]
  | (k, v) :: t, n, a =>
    if n < k then (n, a) :: (k, v) :: t
    else if n = k then (n, a) :: t
    else (k, v) :: Table.put t n a

/-- Take the record of number `n` out. -/
def Table.remove {α : Type} : Table α → Nat → Table α
  | [], _ => []
  | (k, v) :: t, n => if n = k then t else (k, v) :: Table.remove t n

/-- Change the record of number `n`, if it is present. -/
def Table.update {α : Type} : Table α → Nat → (α → α) → Table α
  | [], _, _ => []
  | (k, v) :: t, n, f => if n = k then (k, f v) :: t else (k, v) :: Table.update t n f

/-- Change every record, each from its number. -/
def Table.mapRecords {α : Type} (f : Nat → α → α) : Table α → Table α
  | [] => []
  | (k, v) :: t => (k, f k v) :: Table.mapRecords f t

/-- Keep the records that `p` holds of. -/
def Table.keep {α : Type} (p : Nat → α → Bool) : Table α → Table α
  | [] => []
  | (k, v) :: t => if p k v then (k, v) :: Table.keep p t else Table.keep p t

/-- The numbers present, in rising order. -/
def Table.numbers {α : Type} : Table α → List Nat
  | [] => []
  | (k, _) :: t => k :: Table.numbers t

/-- How many records `p` holds of. -/
def Table.count {α : Type} (p : Nat → α → Bool) (t : Table α) : Nat := (t.keep p).length

/-- The lowest number from `n` on that is not present (the table's numbers from `n` on rising). -/
def Table.firstFree {α : Type} : Table α → Nat → Nat
  | [], n => n
  | (k, _) :: t, n => if k = n then Table.firstFree t (n + 1) else if k < n then Table.firstFree t n else n

/-- The canonical form: numbers strictly rising. -/
abbrev Table.Sorted {α : Type} (t : Table α) : Prop := t.numbers.Pairwise (· < ·)

/-- Four like things: the risers, the interval counters. -/
structure Quad (α : Type) where
  q0 : α
  q1 : α
  q2 : α
  q3 : α
  deriving DecidableEq, Repr

/-- The item of number `n` (0..3). -/
def Quad.item {α : Type} (q : Quad α) (n : Nat) : α :=
  match n with
  | 0 => q.q0
  | 1 => q.q1
  | 2 => q.q2
  | _ => q.q3

/-- Write the item of number `n` (0..3). -/
def Quad.write {α : Type} (q : Quad α) (n : Nat) (a : α) : Quad α :=
  match n with
  | 0 => { q with q0 := a }
  | 1 => { q with q1 := a }
  | 2 => { q with q2 := a }
  | _ => { q with q3 := a }

/-- A list put into an order that nothing fixes: each next item is picked by the free value
`Config.choice`, counted on from `c`.  A list of at most one item keeps its one order. -/
def freeOrder {α : Type} (c : Nat) : Nat → List α → List α
  | 0, xs => xs
  | _ + 1, [] => []
  | _ + 1, [x] => [x]
  | n + 1, x :: y :: xs =>
    let i := Config.choice (c + n) % (x :: y :: xs).length
    (x :: y :: xs)[i]?.toList ++ freeOrder c n ((x :: y :: xs).eraseIdx i)

end Sys2Proof.Machine
end

