-- ==== Sys2Proof/Machine/State.lean ====
section
/-! DEFINITION. The state of the FQ4160: every record its ten kinds of block own, the host port's queues and
outputs, the riser controllers' link state, and the model's own queue of commands that wait.  Plain data.
Each record's docstring names the rule whose fields it holds. -/

namespace Sys2Proof.Machine

/-! ### Enumerations (R190 gives the codes of most) -/

/-- Quota mode and supplies mode (R1, R4). -/
inductive Mode where
  | limited | unlimited
  deriving DecidableEq, Repr

/-- A user's state (R4, R6). -/
inductive UserState where
  | active | suspended
  deriving DecidableEq, Repr

/-- The paper size classes S, L and E (section 2.1). -/
inductive SizeClass where
  | s | l | e
  deriving DecidableEq, Repr

/-- The toner colours (R129). -/
inductive Toner where
  | k | c | m | y
  deriving DecidableEq, Repr

/-- A job's state (R50). -/
inductive JobState where
  | receiving | held | queued | printing
  deriving DecidableEq, Repr

/-- A queue entry's sub-state (R69). -/
inductive SubState where
  | waiting | sent
  deriving DecidableEq, Repr

/-- A station's state (section 4.3). -/
inductive StationState where
  | probation | inService | degraded | outOfService | parked
  deriving DecidableEq, Repr

/-- A callout's state (R156). -/
inductive CalloutState where
  | opened | acknowledged | stalled | resolved
  deriving DecidableEq, Repr

/-- A reorder's state (R136). -/
inductive ReorderState where
  | proposed | deferred | placed
  deriving DecidableEq, Repr

/-- A reorder's cause (R135). -/
inductive ReorderCause where
  | cover | floor
  deriving DecidableEq, Repr

/-- An interval counter's source (R172). -/
inductive CounterSource where
  | minutes | impressions
  deriving DecidableEq, Repr

/-- The kind of an account (R37, R38). -/
inductive AccountKind where
  | user | tenant
  deriving DecidableEq, Repr

/-- The refusal reasons of a request (10.7.4). -/
inductive Reason where
  | unknownRequest | badLength | outOfRange | notPermitted | noSuch | wrongState
  | duplicate | full | limit | storeFull | busy | requestQueueFull
  deriving DecidableEq, Repr

/-- The display results of a badge presentation (R86, R90). -/
inductive DisplayResult where
  | release | notEnrolled | suspended | stationDown | notPermittedHere | nothingHeld
  deriving DecidableEq, Repr

/-- Why a candidate is skipped (R88). -/
inductive SkipReason where
  | media | colour | userQuota | tenantQuota | queueFull
  deriving DecidableEq, Repr

/-- Why an entry is returned (R103). -/
inductive ReturnReason where
  | noStart | parked | fault | clearWindow | colour | media
  deriving DecidableEq, Repr

/-- The abort reasons of JOB ABORT (R99). -/
inductive AbortReason where
  | other | jam | door | paper | toner | service | panel | withdrawn
  deriving DecidableEq, Repr

/-- The causes of JOB DELETED (R61). -/
inductive DeleteCause where
  | cancel | userRemoved
  deriving DecidableEq, Repr

/-- The causes of CALLOUT CLOSED (R162). -/
inductive CloseCause where
  | request | retired
  deriving DecidableEq, Repr

/-- The restart kinds (R188). -/
inductive RestartKind where
  | jobs | all
  deriving DecidableEq, Repr

/-- The notice classes (R184). -/
inductive NoticeClass where
  | job | quota | station | supply | callout | clock
  deriving DecidableEq, Repr

/-! ### TUT and QA -/

/-- The fields of an account that QA writes (section 2.3). -/
structure Account where
  used      : Nat := 0
  reserved  : Nat := 0
  warned    : Bool := false
  stopped   : Bool := false
  saturated : Bool := false
  deriving DecidableEq, Repr

/-- A present tenant's record (R1).  The defaults are those of R1; an absent tenant keeps them all. -/
structure Tenant where
  quotaMode         : Mode := .unlimited
  allowance         : Nat := 0
  grace             : Nat := 0
  account           : Account := {}
  warnPercent       : Nat := 80
  jobLimit          : Nat := 8
  releaseDepth      : Nat := 4
  holdMinutes       : Nat := 1440
  partition         : Nat := 0
  suppliesMode      : Mode := .unlimited
  suppliesAllowance : Nat := 0
  suppliesUsed      : Nat := 0
  leadCover         : Nat := 10
  floorPercent      : Nat := 8
  commitWindow      : Nat := 2
  deriving DecidableEq, Repr

/-- A non-empty user record (R4); its number is its place in the table. -/
structure User where
  badge           : Nat
  tenant          : Nat
  state           : UserState := .active
  quotaMode       : Mode := .unlimited
  allowance       : Nat := 0
  grace           : Nat := 0
  account         : Account := {}
  colourPermitted : Bool := true
  jobCount        : Nat := 0
  submitSeq       : Nat := 0
  owned           : List Nat := []
  deriving DecidableEq, Repr

/-- The three rates of a size class (R21). -/
structure ClassRates where
  mono   : Nat
  colour : Nat
  sheet  : Nat
  deriving DecidableEq, Repr

/-- The rate table (R21); the defaults are its power-on values. -/
structure RateTable where
  s : ClassRates := ⟨1, 5, 1⟩
  l : ClassRates := ⟨2, 10, 2⟩
  e : ClassRates := ⟨1, 5, 1⟩
  deriving DecidableEq, Repr

/-! ### HJS -/

/-- A job descriptor (R49). -/
structure Descriptor where
  pages     : Nat
  copies    : Nat
  nUp       : Nat
  duplex    : Bool
  colour    : Bool
  sizeClass : SizeClass
  fallback  : Bool
  deriving DecidableEq, Repr

/-- Reported counts: mono impressions Im, colour impressions Ic and sheets Hs (R27). -/
structure Counts where
  mono   : Nat := 0
  colour : Nat := 0
  sheets : Nat := 0
  deriving DecidableEq, Repr

/-- The fields of a job record that are present only in QUEUED and PRINTING (R49). -/
structure Charging where
  station         : Nat
  reservation     : Nat
  monoRate        : Nat
  colourRate      : Nat
  sheetRate       : Nat
  surcharge       : Nat
  fallback        : Bool
  duplexEffective : Bool
  deriving DecidableEq, Repr

/-- A job record (R49); it stands in the table of occupied slots under its slot's number. -/
structure Job where
  handle          : Nat
  owner           : Nat
  tenant          : Nat
  descriptor      : Descriptor
  spoolRef        : Nat
  submitted       : Nat
  holdDeadline    : Nat
  state           : JobState
  committed       : Bool
  charging        : Option Charging := none
  cancelRequested : Bool := false
  progress        : Option Counts := none
  deriving DecidableEq, Repr

/-! ### SDIR -/

/-- A set of size classes (R67). -/
structure SizeSet where
  s : Bool
  l : Bool
  e : Bool
  deriving DecidableEq, Repr

/-- A release-queue entry (R69). -/
structure Entry where
  handle          : Nat
  sub             : SubState := .waiting
  released        : Nat
  commitDeadline  : Option Nat := none
  startDeadline   : Option Nat := none
  abandonDeadline : Option Nat := none
  holdOver        : Bool := false
  deriving DecidableEq, Repr

/-- A station record (R67); the defaults are those at creation. -/
structure Station where
  state      : StationState := .probation
  model      : Nat
  colour     : Bool
  duplex     : Bool
  sizes      : SizeSet
  owner      : Nat := 0
  admitted   : List Nat := []
  surcharge  : Nat := 0
  floor      : Nat := 0
  neighbours : List Nat := []
  weight     : Nat := 2
  midWater   : Nat := 2
  paused     : Bool := false
  queue      : List Entry := []
  lifeMono   : Nat := 0
  lifeColour : Nat := 0
  lifeSheets : Nat := 0
  deriving DecidableEq, Repr

/-! ### RLC -/

/-- A neighbour suggestion: a station and its floor (R91). -/
structure Suggestion where
  station : Nat
  floor   : Nat
  deriving DecidableEq, Repr

/-- The fields of a SHOW command (R90). -/
structure Show where
  result     : DisplayResult
  released   : Nat := 0
  fallback   : Nat := 0
  skipped    : Nat := 0
  firstSkip  : Option SkipReason := none
  suggestion : Option Suggestion := none
  deriving DecidableEq, Repr

/-- The commands of a riser link (R122). -/
inductive Command where
  | expect (token pages copies nUp : Nat) (duplexEffective colour : Bool) (sizeClass : SizeClass)
  | withdraw (token : Nat)
  | display (sh : Show)
  | queryLevels
  deriving DecidableEq, Repr

/-- A link record (R111) with the commands its station's blocks hold for it (R119), oldest first.
`accepted = none` is NONE. -/
structure Link where
  accepted : Option Bool
  misses   : Nat := 0
  silent   : Bool := false
  phase    : Nat := 0
  commands : List Command := []
  held     : List Command := []
  deriving DecidableEq, Repr

/-- A running sweep (R111): the addresses still to be tried, and the counts. -/
structure Sweep where
  addresses : List Nat
  tried     : Nat := 0
  found     : Nat := 0
  deriving DecidableEq, Repr

/-- The poll whose reply is awaited (R110, R113): what it carried, whether it is a sweep trial, how many
polls its visit has made with it, and whether its reply is to be discarded (R126 step 4, R127). -/
structure AwaitedPoll where
  drop      : Nat
  ack       : Option Bool
  command   : Option Command
  trial     : Bool
  made      : Nat
  discarded : Bool := false
  deriving DecidableEq, Repr

/-- A riser link controller's own state (R111).  `position` is the drop address the pass has reached;
`again` is the number of polls already made in the visit to it when R113 asks for another, and 0
otherwise. -/
structure Riser where
  burst    : Nat := 2
  position : Nat := 1
  sweep    : Option Sweep := none
  awaited  : Option AwaitedPoll := none
  again    : Nat := 0
  deriving DecidableEq, Repr

/-! ### SPL -/

/-- A consumable record (R129); `level = none` is UNKNOWN.  Its number in the table is
station × 4 + toner code. -/
structure Consumable where
  level       : Option Nat := none
  yield       : Nat := 0
  sinceChange : Nat := 0
  interval    : Nat := 0
  rate        : Nat := 0
  rateLearnt  : Bool := false
  cover       : Nat := 999
  reorder     : Option Nat := none
  deriving DecidableEq, Repr

/-- A reorder (R136). -/
structure Reorder where
  number  : Nat
  station : Nat
  colour  : Toner
  tenant  : Nat
  state   : ReorderState
  created : Nat
  cause   : ReorderCause
  level   : Nat
  cover   : Nat
  due     : Option Nat := none
  overdue : Bool := false
  deriving DecidableEq, Repr

/-! ### CMG -/

/-- A set of toner colours (R148). -/
structure ColourSet where
  k : Bool
  c : Bool
  m : Bool
  y : Bool
  deriving DecidableEq, Repr

/-- A fault entry's callout link, with the field each link carries (R148). -/
inductive CalloutLink where
  | waiting (due : Option Nat)
  | suppressed
  | pending (fellDue : Nat)
  | called (callout : Nat)
  deriving DecidableEq, Repr

/-- A fault entry (R148).  `colours` is read only for TONER. -/
structure FaultEntry where
  station : Nat
  cls     : FaultClass
  colours : ColourSet
  since   : Nat
  link    : CalloutLink
  deriving DecidableEq, Repr

/-- A callout record (R156); it stands in the callout table under its number. -/
structure Callout where
  station    : Nat
  cls        : FaultClass
  tier       : Nat
  state      : CalloutState
  opened     : Nat
  deadline   : Option Nat
  recurrence : Nat
  deriving DecidableEq, Repr

/-- The callout policy (R163); the defaults are its power-on values. -/
structure Policy where
  jam     : Nat := 15
  door    : Nat := 15
  paper   : Nat := 15
  toner   : Nat := 0
  service : Nat := 0
  silent  : Nat := 5
  t1      : Nat := 30
  t2      : Nat := 60
  t3      : Nat := 120
  deriving DecidableEq, Repr

/-! ### CLK -/

/-- An interval counter (R172). -/
structure Counter where
  source  : CounterSource := .minutes
  preload : Nat
  count   : Nat
  deriving DecidableEq, Repr

/-- An expiry of a MINUTES counter that its owner has not been handed yet (R174; assumption 7). -/
structure Expiry where
  counter : Nat
  source  : CounterSource
  preload : Nat
  deriving DecidableEq, Repr

/-! ### HPT -/

/-- A request as it waits in the request queue: the bytes of its frame (10.7.2).  `oversize` marks a frame
whose length field is above 1,020, of which only kind and tag are taken (R181). -/
structure Request where
  kind     : Byte
  tag      : Byte
  role     : Nat
  tenant   : Nat
  body     : List Byte
  oversize : Bool := false
  deriving DecidableEq, Repr

/-- The notice class mask: which classes are enabled (R184, R185). -/
structure Mask where
  job     : Bool := true
  quota   : Bool := true
  station : Bool := true
  supply  : Bool := true
  callout : Bool := true
  clock   : Bool := true
  deriving DecidableEq, Repr

/-- The fields of each kind of notice (10.7.5), in its rule's order and without the clock minute.
In `stationState`, `after = none` is RETIRED (R82). -/
inductive NoticeBody where
  | streamJob (handle token spoolRef station : Nat) (fallback duplexEffective : Bool)
  | jobDone (handle owner spoolRef station charge : Nat) (counts : Counts) (aborted : Option AbortReason) (fallback : Bool)
  | jobAbandoned (handle owner spoolRef station charge : Nat) (counts : Counts) (fallback : Bool) (faults : List FaultClass)
  | jobReturned (handle owner spoolRef station : Nat) (into : JobState) (reason : ReturnReason)
  | jobFallback (handle owner station before after : Nat)
  | commitLapsed (handle owner spoolRef station : Nat)
  | jobDeleted (handle owner spoolRef : Nat) (cause : DeleteCause)
  | jobExpired (handle owner spoolRef : Nat)
  | jobFailed (handle owner spoolRef : Nat) (state : JobState)
  | quotaWarn (kind : AccountKind) (number used level : Nat)
  | quotaStop (kind : AccountKind) (number used level : Nat)
  | periodRolled (kind : AccountKind) (count : Nat)
  | stationState (station : Nat) (before : StationState) (after : Option StationState) (faults : List FaultClass)
  | stationBusy (station depth capacity : Nat)
  | stationFound (station model : Nat) (colour duplex : Bool) (sizes : SizeSet)
  | sweepDone (riser tried found : Nat) (aborted : Bool)
  | reorderProposed (number station : Nat) (colour : Toner) (tenant : Nat) (cause : ReorderCause)
      (level cover used allowance : Nat) (approved promoted : Bool)
  | reorderDeferred (number station : Nat) (colour : Toner) (tenant : Nat) (cause : ReorderCause)
      (level cover used allowance : Nat)
  | reorderOverdue (number station : Nat) (colour : Toner) (tenant due : Nat)
  | reorderReceived (number station : Nat) (colour : Toner) (tenant : Nat) (state : ReorderState)
  | reorderCancelled (number station : Nat) (colour : Toner) (tenant : Nat) (state : ReorderState)
  | calloutOpen (number station floor : Nat) (cls : FaultClass) (colours : Option ColourSet)
      (tier recurrence : Nat) (reopened : Bool) (since : Nat)
  | calloutEscalated (number station floor : Nat) (cls : FaultClass) (tier recurrence : Nat)
  | calloutStalled (number station floor : Nat) (cls : FaultClass) (tier opened recurrence : Nat) (reminder : Bool)
  | calloutResolved (number station floor : Nat) (cls : FaultClass) (tier : Nat) (before : CalloutState)
  | calloutClosed (number station : Nat) (cls : FaultClass) (tier recurrence : Nat) (cause : CloseCause)
  | intervalExpired (counter : Nat) (source : CounterSource) (preload : Nat)
  deriving DecidableEq, Repr

/-- A queued notice (R184): its class, the clock minute at which it was queued, and its fields. -/
structure Notice where
  cls    : NoticeClass
  minute : Nat
  body   : NoticeBody
  deriving DecidableEq, Repr

/-- What a probe reports of one examined candidate (R92). -/
inductive Verdict where
  | release | releaseFallback | skip (r : SkipReason)
  deriving DecidableEq, Repr

/-- One examined candidate: its job's handle, its outcome, and its estimate where one was computed (R92). -/
structure Examined where
  handle   : Nat
  verdict  : Verdict
  estimate : Option Nat
  deriving DecidableEq, Repr

/-- A callout as LIST CALLOUTS gives it (R165). -/
structure ListedCallout where
  number  : Nat
  record  : Callout
  colours : Option ColourSet
  deriving DecidableEq, Repr

/-- A pending fault as LIST CALLOUTS gives it (R165). -/
structure ListedPending where
  station : Nat
  cls     : FaultClass
  fellDue : Nat
  deriving DecidableEq, Repr

/-- The bodies of OK and ACCEPTED replies, each with the fields its request's rule names. -/
inductive ReplyBody where
  /-- no field -/
  | empty
  /-- PUT TENANT, GET TENANT (R10, R12) -/
  | tenant (record : Tenant) (remaining : Option Int) (users stations : Nat)
  /-- ENROL USER, FIND BADGE (R14, R18): a user number -/
  | userNumber (n : Nat)
  /-- REMOVE USER (R17): the number of jobs deleted -/
  | jobsDeleted (n : Nat)
  /-- GET USER, AMEND USER (R15, R18) -/
  | user (record : User) (remaining : Option Int) (warnLevel : Nat)
  /-- ADJUST ACCOUNT (R39) -/
  | adjusted (prior used reserved : Nat) (saturated : Bool) (remaining : Option Int)
  /-- HOLD JOB (R55) -/
  | jobHeld (handle token holdDeadline : Nat) (converted : Bool)
  /-- GET JOB (R62): the record and, when QUEUED or PRINTING, its queue entry -/
  | job (record : Job) (entry : Option Entry)
  /-- LIST JOBS (R63) -/
  | jobs (count : Nat) (entries : List (Nat × JobState)) (following : Nat)
  /-- PROBE RELEASE (R92): the SHOW fields and, for RELEASE, the examined candidates -/
  | probe (sh : Show) (items : List Examined)
  /-- SET RELEASE TIMING (R95) -/
  | timing (start abandon : Nat)
  /-- ADMIT STATION (R75) -/
  | admitted (state : StationState) (capacity : Nat)
  /-- PARK STATION (R76): the number of entries returned -/
  | parked (returned : Nat)
  /-- UNPARK STATION (R77) -/
  | unparked (state : StationState)
  /-- GET STATION, SET STATION (R83, R78) -/
  | station (record : Station) (capacity depth freePool : Nat) (faults : List FaultClass) (silent : Bool)
      (entries : List (Nat × SubState × Bool))
  /-- SWEEP RISER (R124): the number of addresses on the list -/
  | sweep (addresses : Nat)
  /-- LINK RESET (R126) -/
  | linkReset (burst links : Nat)
  /-- GET CONSUMABLE (R144) -/
  | consumable (record : Consumable) (owner leadCover floorPercent : Nat) (reorder : Option Reorder)
  /-- LIST REORDERS (R144) -/
  | reorders (items : List Reorder) (count next : Nat)
  /-- APPROVE REORDER (R138) -/
  | approved (reorder : Reorder) (used allowance : Nat)
  /-- PLACE REORDER (R139): the due minute -/
  | placed (due : Nat)
  /-- CANCEL REORDER (R141): the tenant's supplies used -/
  | cancelled (used : Nat)
  /-- ACK CALLOUT (R160) -/
  | acknowledged (number : Nat) (state : CalloutState) (tier : Nat)
  /-- CLOSE CALLOUT (R162) -/
  | closed (records : Nat) (opened : Option Nat)
  /-- SET CALLOUT POLICY (R164) -/
  | policy (p : Policy)
  /-- LIST CALLOUTS (R165) -/
  | callouts (records : List ListedCallout) (count next : Nat) (pending : List ListedPending)
      (faults : Option (List FaultEntry))
  /-- READ CLOCK (R171) -/
  | clock (minute : Nat)
  /-- SET CLOCK (R170): the value before the write and the value written -/
  | clockSet (before after : Nat)
  /-- SET INTERVAL (R175): the counter before and after the write -/
  | intervalSet (before after : Counter)
  /-- READ INTERVAL (R176) -/
  | intervals (counters : Quad Counter)
  /-- PART INFO (R187): the part code, the revision and the capacities in their order -/
  | partInfo (code revision : Nat) (capacities : List Nat)
  /-- FETCH NOTICE (R186): the notice removed, or none, with more and lost -/
  | fetched (notice : Option Notice) (more lost : Bool)
  /-- SET NOTICE MASK (R185) -/
  | masks (before after : Mask)
  /-- RESTART (R188) -/
  | restarted (kind : RestartKind)
  deriving DecidableEq, Repr

/-- The status of a reply with what it carries (R183): a refused reply has an empty body. -/
inductive Answer where
  | ok (body : ReplyBody)
  | accepted (body : ReplyBody)
  | refused (r : Reason)
  deriving DecidableEq, Repr

/-- A reply, echoing its request's kind and tag (R183). -/
structure Reply where
  kind   : Byte
  tag    : Byte
  answer : Answer
  deriving DecidableEq, Repr

/-! ### The machine -/

/-- The whole state.  The manual's block diagram groups the fields. -/
structure State where
  /-- RESET is held low (R179) -/
  resetHeld : Bool
  /-- the host rate code read from RATE0..RATE2 (R179) -/
  rate : BitVec 3
  /-- HPT: bytes received of a frame that is not complete (R180) -/
  rx : List Byte
  /-- HPT: the request queue, oldest first (R182) -/
  requests : List Request
  /-- HPT: kind and tag of each frame that completed with the queue full and is not answered yet (R182) -/
  overflow : List (Byte × Byte)
  /-- HPT: the reply that TXD is sending (R182); none while TXD is idle -/
  txd : Option Reply
  /-- HPT: the replies formed that TXD has not begun to send, in the order in which they were formed (R182, R183) -/
  replies : List Reply
  /-- HPT: the notice queue, oldest first (R184) -/
  notices : List Notice
  /-- HPT: the notice class mask (R185) -/
  mask : Mask
  /-- HPT: the lost flag (R184) -/
  lost : Bool
  /-- RLC0..RLC3: each controller's own state (R111) -/
  risers : Quad Riser
  /-- RLC: the link records, by station number (R111) -/
  links : Table Link
  /-- SDIR: the station records, by station number (R66, R67) -/
  stations : Table Station
  /-- HJS: the job records, by slot (R45, R49) -/
  jobs : Table Job
  /-- HJS: the slot generations that are not 0, by slot (R45) -/
  generations : Table Nat
  /-- HJS: the partition count P (R45) -/
  partitions : Nat
  /-- RLE: the start window (R95) -/
  startWindow : Nat
  /-- RLE: the abandon window (R95) -/
  abandonWindow : Nat
  /-- QA: the rate table (R21) -/
  rates : RateTable
  /-- TUT: the present tenants' records, by tenant number (R1) -/
  tenants : Table Tenant
  /-- TUT: the non-empty user records, by user number (R4) -/
  users : Table User
  /-- SPL: the consumable records, by station × 4 + toner code (R129) -/
  consumables : Table Consumable
  /-- SPL: the reorder list, in creation order (section 7.4) -/
  reorders : List Reorder
  /-- SPL: the next number of a reorder (R136) -/
  nextReorder : Nat
  /-- CMG: the fault table, by station × 8 + class code (R148) -/
  faults : Table FaultEntry
  /-- CMG: the callout table, by callout number (R156) -/
  callouts : Table Callout
  /-- CMG: the next callout number (R156) -/
  nextCallout : Nat
  /-- CMG: the pending list, oldest first (R151) -/
  pendingFaults : List (Nat × FaultClass)
  /-- CMG: the callout policy (R163) -/
  policy : Policy
  /-- CLK: the building clock (R168) -/
  clock : Nat
  /-- CLK: the interval counters IC0..IC3 (R172) -/
  counters : Quad Counter
  /-- CLK: expiries on their way to their owners (R174; the MODEL's own field, assumption 7) -/
  expiries : List Expiry
  /-- the MODEL's own field (assumption 2): how many free choices have been made -/
  choices : Nat
  /-- the MODEL's own field: the commands that wait, first in, first out -/
  pending : List Instr
  deriving DecidableEq, Repr

/-- What stops the machine.  The part has no fault of its own: nothing in the manual stops it, so this type
has no constructor and no meaning answers with a fault. -/
inductive Fault where
  deriving DecidableEq, Repr

/-- Why a command has no meaning. -/
inductive Refusal where
  /-- Raised by `exec` alone, for a command that has no meaning yet; safe (the model stops where the part goes
  on).  No arm of `exec` raises it now. -/
  | notModelled (mnemonic : String)
  deriving DecidableEq, Repr

/-- A riser controller after power-on (R111, R128). -/
def Riser.initial : Riser := {}

/-- The interval counters after power-on (R178). -/
def initialCounters : Quad Counter :=
  { q0 := { preload := 43200, count := 43200 }
    q1 := { preload := 43200, count := 43200 }
    q2 := { preload := 1440, count := 1440 }
    q3 := { preload := 60, count := 60 } }

/-- The machine right after power-on: R20, R44, R65, R85, R109, R128, R146, R167, R178, R179.  The rate code
read from the straps is not the part's to fix: 0 stands here (assumption 1). -/
def State.reset : State :=
  { resetHeld := false
    rate := 0#3
    rx := []
    requests := []
    overflow := []
    txd := none
    replies := []
    notices := []
    mask := {}
    lost := false
    risers := ⟨Riser.initial, Riser.initial, Riser.initial, Riser.initial⟩
    links := []
    stations := []
    jobs := []
    generations := []
    partitions := 1
    startWindow := 10
    abandonWindow := 30
    rates := {}
    tenants := [(0, {})]
    users := []
    consumables := []
    reorders := []
    nextReorder := 1
    faults := []
    callouts := []
    nextCallout := 1
    pendingFaults := []
    policy := {}
    clock := 0
    counters := initialCounters
    expiries := []
    choices := 0
    pending := [] }

end Sys2Proof.Machine
end

