-- ==== Sys2Proof/Machine/Ops.lean ====
section
/-! DEFINITION. The shared operations of the host port, the lookups, and the command lists of the riser
links: what the blocks hand to HPT and to the RLCs. -/

namespace Sys2Proof.Machine

/-! ### Codes, orders and lookups -/

/-- A fault class's code (R190). -/
def classCode : FaultClass → Nat
  | .jam => 1
  | .door => 2
  | .paper => 3
  | .toner => 4
  | .service => 5
  | .silent => 6

/-- The fault classes in the order R153 takes them. -/
def allClasses : List FaultClass := [.jam, .door, .paper, .toner, .service, .silent]

/-- The number of a station's fault entry of a class in the fault table. -/
def faultKey (st : Nat) (c : FaultClass) : Nat := st * 8 + classCode c

/-- A toner colour's code (R190). -/
def tonerCode : Toner → Nat
  | .k => 0
  | .c => 1
  | .m => 2
  | .y => 3

/-- The toner colours in the order R131 and R133 take them. -/
def allToners : List Toner := [.k, .c, .m, .y]

/-- The number of a station's consumable record of a colour in the table. -/
def consumableKey (st : Nat) (col : Toner) : Nat := st * 4 + tonerCode col

/-- The current minute plus a window, capped (R168). -/
def State.minuteAfter (s : State) (w : Nat) : Nat := min (s.clock + w) Config.maxMinute

/-- A tenant's record; an absent tenant keeps every field at its default (R1). -/
def State.tenantOf (s : State) (t : Nat) : Tenant := (s.tenants.fetch t).getD {}

/-- A slot's generation (R45). -/
def State.generation (s : State) (slot : Nat) : Nat := (s.generations.fetch slot).getD 0

/-- Write a slot's generation; the table lists those that are not 0. -/
def State.setGeneration (s : State) (slot g : Nat) : State :=
  { s with generations := if g = 0 then s.generations.remove slot else s.generations.put slot g }

/-- The job a handle names (R48). -/
def State.jobNamed (s : State) (handle : Nat) : Option Job :=
  match s.jobs.fetch (handle / 256) with
  | some j => if s.generation (handle / 256) = handle % 256 then some j else none
  | none => none

/-- Change the record of the job a handle names. -/
def State.updateJob (s : State) (handle : Nat) (f : Job → Job) : State :=
  { s with jobs := s.jobs.update (handle / 256) f }

/-- A job's token, from its handle (R47). -/
def tokenOf (handle : Nat) : Nat := handle / 256 * 64 + handle % 256 % 64

/-- Change a station's record. -/
def State.updateStation (s : State) (st : Nat) (f : Station → Station) : State :=
  { s with stations := s.stations.update st f }

/-- The station of a drop address of a riser (R66). -/
def stationAt (riser drop : Nat) : Nat := riser * 24 + (drop - 1)

/-- A station's capacity (R70). -/
def Station.capacity (x : Station) : Nat :=
  if x.state = .probation then 0 else 2 ^ x.weight

/-- The depth of a station's queue (R69). -/
def Station.depth (x : Station) : Nat := x.queue.length

/-- The sum of a table of stations' capacities (R70). -/
def capacitySum : Table Station → Nat
  | [] => 0
  | (_, x) :: t => x.capacity + capacitySum t

/-- The free pool (R70). -/
def State.freePool (s : State) : Nat := Config.poolSize - capacitySum s.stations

/-- A station's active fault entries (R148).  DESIGN CHOICE (assumption 33): they stand in the order of their class
codes, an order that no rule states; LIST CALLOUTS lists them so. -/
def State.activeFaults (s : State) (st : Nat) : List FaultEntry :=
  allClasses.filterMap (fun c => s.faults.fetch (faultKey st c))

/-- The classes of a station's active faults. -/
def State.activeClasses (s : State) (st : Nat) : List FaultClass := (s.activeFaults st).map (·.cls)

/-- Whether a fault entry is blocking (R147). -/
def FaultEntry.blocking (f : FaultEntry) : Bool :=
  match f.cls with
  | .toner => f.colours.k
  | _ => true

/-- Whether a class is user-clearable (R147). -/
def userClearable : FaultClass → Bool
  | .jam | .door | .paper => true
  | .toner | .service | .silent => false

/-- The classes of a station's active blocking faults (R73). -/
def State.blockingClasses (s : State) (st : Nat) : List FaultClass :=
  ((s.activeFaults st).filter (·.blocking)).map (·.cls)

/-- Whether a tenant is admitted at a station (R68). -/
def Station.admits (x : Station) (t : Nat) : Bool := t = 0 || t = x.owner || x.admitted.contains t

/-- Whether a size class is in a set. -/
def SizeSet.contains (x : SizeSet) : SizeClass → Bool
  | .s => x.s
  | .l => x.l
  | .e => x.e

/-- Whether a colour is in a set. -/
def ColourSet.contains (x : ColourSet) : Toner → Bool
  | .k => x.k
  | .c => x.c
  | .m => x.m
  | .y => x.y

/-- The colours of a set, in order. -/
def ColourSet.members (x : ColourSet) : List Toner := allToners.filter x.contains

/-- Whether a set of colours is empty. -/
def ColourSet.isEmpty (x : ColourSet) : Bool := !(x.k || x.c || x.m || x.y)

/-- The union of two sets of colours. -/
def ColourSet.union (x y : ColourSet) : ColourSet := ⟨x.k || y.k, x.c || y.c, x.m || y.m, x.y || y.y⟩

/-- A set of colours less another. -/
def ColourSet.minus (x y : ColourSet) : ColourSet :=
  ⟨x.k && !y.k, x.c && !y.c, x.m && !y.m, x.y && !y.y⟩

/-! ### Free choices -/

/-- Put a list into an order that nothing fixes, counting the choices made (assumption 2). -/
def State.freeOrder {α : Type} (s : State) (xs : List α) : List α :=
  Sys2Proof.Machine.freeOrder s.choices xs.length xs

/-- Count the choices an order of `n` items may have taken. -/
def State.countChoices (s : State) (n : Nat) : State := { s with choices := s.choices + n }

/-! ### HPT: notices and replies -/

/-- The class of each notice kind (10.7.5). -/
def NoticeBody.cls : NoticeBody → NoticeClass
  | .streamJob .. | .jobDone .. | .jobAbandoned .. | .jobReturned .. | .jobFallback ..
  | .commitLapsed .. | .jobDeleted .. | .jobExpired .. | .jobFailed .. => .job
  | .quotaWarn .. | .quotaStop .. | .periodRolled .. => .quota
  | .stationState .. | .stationBusy .. | .stationFound .. | .sweepDone .. => .station
  | .reorderProposed .. | .reorderDeferred .. | .reorderOverdue .. | .reorderReceived ..
  | .reorderCancelled .. => .supply
  | .calloutOpen .. | .calloutEscalated .. | .calloutStalled .. | .calloutResolved ..
  | .calloutClosed .. => .callout
  | .intervalExpired .. => .clock

/-- Whether the mask enables a class (R184). -/
def Mask.enables (m : Mask) : NoticeClass → Bool
  | .job => m.job
  | .quota => m.quota
  | .station => m.station
  | .supply => m.supply
  | .callout => m.callout
  | .clock => m.clock

/-- Queue a notice: not queued when its class is disabled, joined at the end while fewer than 64 are
queued, else discarded with the lost flag set (R184). -/
def State.notify (s : State) (b : NoticeBody) : State :=
  if s.mask.enables b.cls then
    if s.notices.length < Config.noticeCapacity then
      { s with notices := s.notices ++ [⟨b.cls, s.clock, b⟩] }
    else { s with lost := true }
  else s

/-- Queue several notices in their order. -/
def State.notifyAll (s : State) (bs : List NoticeBody) : State := bs.foldl State.notify s

/-- ATTN is high while the notice queue holds a notice (R184), and held low under RESET (R179). -/
def State.attn (s : State) : Bool := !s.resetHeld && !s.notices.isEmpty

/-- The REFUSED REQUEST_QUEUE_FULL answer to a frame that was not queued (R182). -/
def queueFullReply (f : Byte × Byte) : Reply := ⟨f.1, f.2, .refused .requestQueueFull⟩

/-- Form a reply echoing a request's kind and tag.  TXD begins it when nothing is to be sent before it, and else it
waits behind the replies formed before it (R182). -/
def State.reply (s : State) (q : Request) (a : Answer) : State :=
  let free := s.txd.isNone && s.overflow.isEmpty && s.replies.isEmpty
  { s with
    txd := if free then some ⟨q.kind, q.tag, a⟩ else s.txd
    replies := if free then [] else s.replies ++ [⟨q.kind, q.tag, a⟩] }

/-! ### RLC: command lists -/

/-- Whether a command is a SHOW. -/
def Command.isShow : Command → Bool
  | .display _ => true
  | _ => false

/-- Hand a command that is not a SHOW to a link (R119): a QUERY LEVELS while another waits is discarded;
otherwise it enters at the back, or is held when the list is full. -/
def Link.hand (l : Link) (c : Command) : Link :=
  if c = .queryLevels && (l.commands.contains c || l.held.contains c) then l
  else if l.commands.length < Config.commandCapacity then { l with commands := l.commands ++ [c] }
  else { l with held := l.held ++ [c] }

/-- Hand a SHOW to a link (R120): it enters at the front, taking the place of a SHOW that stands in the list;
if the list is full without one, the command at the back goes to the front of the held commands. -/
def Link.handShow (l : Link) (sh : Show) : Link :=
  if l.commands.any Command.isShow then
    { l with commands := .display sh :: l.commands.filter (fun c => !c.isShow) }
  else if l.commands.length < Config.commandCapacity then
    { l with commands := .display sh :: l.commands }
  else
    { l with
      commands := .display sh :: l.commands.dropLast
      held := l.commands.getLast?.toList ++ l.held }

/-- The command a poll carried has been taken (R114 step 2): it leaves the list, and the oldest held command
enters at the back (R119). -/
def Link.taken (l : Link) (c : Command) : Link :=
  if l.commands.contains c then
    match l.held with
    | [] => { l with commands := l.commands.erase c }
    | h :: hs => { l with commands := l.commands.erase c ++ [h], held := hs }
  else l

/-- Hand a command to a station's riser link controller. -/
def State.handCommand (s : State) (st : Nat) (c : Command) : State :=
  { s with links := s.links.update st (fun l => l.hand c) }

/-- Hand a SHOW to a station's riser link controller. -/
def State.handShow (s : State) (st : Nat) (sh : Show) : State :=
  { s with links := s.links.update st (fun l => l.handShow sh) }

end Sys2Proof.Machine
end

