-- ==== Sys2Proof/Machine/Flags.lean ====
section
/-! DEFINITION. The accounts of QA and their flags: remaining, the fit test, the saturating addition, the warn
and stop checks, rollover, and the reserved fields (chapter 2). -/

namespace Sys2Proof.Machine

/-- What the checks of an account read of its record: quota mode, allowance, grace and warn level. -/
structure Terms where
  mode      : Mode
  allowance : Nat
  grace     : Nat
  warnLevel : Nat
  deriving DecidableEq, Repr

/-- The warn level W: allowance × warn percent ÷ 100, rounded down (R35). -/
def warnLevelOf (allowance percent : Nat) : Nat := allowance * percent / 100

/-- A tenant account's terms. -/
def Tenant.terms (t : Tenant) : Terms :=
  ⟨t.quotaMode, t.allowance, t.grace, warnLevelOf t.allowance t.warnPercent⟩

/-- A user account's terms, with the warn percent of the user's tenant. -/
def State.userTerms (s : State) (u : User) : Terms :=
  ⟨u.quotaMode, u.allowance, u.grace, warnLevelOf u.allowance (s.tenantOf u.tenant).warnPercent⟩

/-- Remaining: allowance plus grace less used less reserved, signed (R28). -/
def Terms.remaining (q : Terms) (a : Account) : Int :=
  (q.allowance + q.grace : Nat) - (a.used : Int) - (a.reserved : Int)

/-- Remaining as the requests report it: of a LIMITED account only (R28). -/
def Terms.reported (q : Terms) (a : Account) : Option Int :=
  match q.mode with
  | .limited => some (q.remaining a)
  | .unlimited => none

/-- The fit test of an estimate against an account (R30). -/
def Terms.fits (q : Terms) (a : Account) (c : Nat) : Bool :=
  c = 0 ||
  (a.reserved + c ≤ Config.maxAccount &&
    match q.mode with
    | .unlimited => true
    | .limited => (c : Int) ≤ q.remaining a)

/-- Add a settlement charge to used, saturating (R34). -/
def Account.charge (a : Account) (x : Nat) : Account :=
  if Config.maxAccount < a.used + x then { a with used := Config.maxAccount, saturated := true }
  else { a with used := a.used + x }

/-- Add a signed delta to used with the clamp of ADJUST ACCOUNT (R38). -/
def Account.adjust (a : Account) (d : Int) : Account :=
  if (Config.maxAccount : Int) < a.used + d then { a with used := Config.maxAccount, saturated := true }
  else { a with used := ((a.used : Int) + d).toNat }

/-- Whether the warn check fires: a LIMITED account's used has risen from below W to W or above while
warned is clear (R35). -/
def Terms.warns (q : Terms) (prior : Nat) (a : Account) : Bool :=
  q.mode = .limited && !a.warned && prior < q.warnLevel && q.warnLevel ≤ a.used

/-- Whether the stop check fires: a LIMITED account's used is at or above allowance plus grace while stopped
is clear (R36). -/
def Terms.stops (q : Terms) (a : Account) : Bool :=
  q.mode = .limited && !a.stopped && q.allowance + q.grace ≤ a.used

/-- The account after the warn and stop checks. -/
def Terms.checked (q : Terms) (prior : Nat) (a : Account) : Account :=
  { a with warned := a.warned || q.warns prior a, stopped := a.stopped || q.stops a }

/-- The notices of the warn and stop checks, the warn first (R36, R37). -/
def Terms.checkNotices (q : Terms) (k : AccountKind) (n prior : Nat) (a : Account) : List NoticeBody :=
  (if q.warns prior a then [.quotaWarn k n a.used q.warnLevel] else []) ++
  (if q.stops a then [.quotaStop k n a.used (q.allowance + q.grace)] else [])

/-- The rollover of an account (R40, R41): the allowance is forgiven, the debt is carried, the three flags
are cleared and reserved stands. -/
def Account.rollOver (mode : Mode) (allowance : Nat) (a : Account) : Account :=
  { a with
    used := match mode with
      | .limited => a.used - allowance
      | .unlimited => 0
    warned := false
    stopped := false
    saturated := false }

/-- Write a user's account. -/
def State.setUserAccount (s : State) (n : Nat) (a : Account) : State :=
  { s with users := s.users.update n (fun u => { u with account := a }) }

/-- Write a tenant's account. -/
def State.setTenantAccount (s : State) (n : Nat) (a : Account) : State :=
  { s with tenants := s.tenants.update n (fun t => { t with account := a }) }

/-- Run the checks of a user's account and write it (R35 to R37). -/
def State.checkUser (s : State) (n prior : Nat) (u : User) (a : Account) : State :=
  (s.setUserAccount n ((s.userTerms u).checked prior a)).notifyAll
    ((s.userTerms u).checkNotices .user n prior a)

/-- Run the checks of a tenant's account and write it (R35 to R37). -/
def State.checkTenant (s : State) (n prior : Nat) (t : Tenant) (a : Account) : State :=
  (s.setTenantAccount n (t.terms.checked prior a)).notifyAll (t.terms.checkNotices .tenant n prior a)

/-- Raise both accounts' reserved by an estimate (R30). -/
def State.reserve (s : State) (user tenant c : Nat) : State :=
  { s with
    users := s.users.update user
      (fun u => { u with account := { u.account with reserved := u.account.reserved + c } })
    tenants := s.tenants.update tenant
      (fun t => { t with account := { t.account with reserved := t.account.reserved + c } }) }

/-- Lower both accounts' reserved (R26, R32). -/
def State.unreserve (s : State) (user tenant c : Nat) : State :=
  { s with
    users := s.users.update user
      (fun u => { u with account := { u.account with reserved := u.account.reserved - c } })
    tenants := s.tenants.update tenant
      (fun t => { t with account := { t.account with reserved := t.account.reserved - c } }) }

/-- The settlement of one account: reserved falls by the reservation, used rises by the charge (R33). -/
def Account.settled (a : Account) (reservation charge : Nat) : Account :=
  { a with reserved := a.reserved - reservation }.charge charge

/-- Settle the user account (R33). -/
def State.settleUser (s : State) (n reservation charge : Nat) : State :=
  match s.users.fetch n with
  | some u => s.checkUser n u.account.used u (u.account.settled reservation charge)
  | none => s

/-- Settle the tenant account (R33). -/
def State.settleTenant (s : State) (n reservation charge : Nat) : State :=
  match s.tenants.fetch n with
  | some t => s.checkTenant n t.account.used t (t.account.settled reservation charge)
  | none => s

/-- Roll over every user account and report it (R40, R42). -/
def State.rollUsers (s : State) : State :=
  let users := s.users.mapRecords
    (fun _ u => { u with account := u.account.rollOver u.quotaMode u.allowance })
  { s with users := users }.notify (.periodRolled .user s.users.length)

/-- Roll over every present tenant's account and report it (R41, R42). -/
def State.rollTenants (s : State) : State :=
  let tenants := s.tenants.mapRecords
    (fun _ t => { t with account := t.account.rollOver t.quotaMode t.allowance })
  { s with tenants := tenants }.notify (.periodRolled .tenant s.tenants.length)

end Sys2Proof.Machine
end

