-- ==== Sys2Proof/Machine/Charges.lean ====
section
/-! DEFINITION. The charge arithmetic (section 2.2): the estimate, the recompute and the settlement charge. -/

namespace Sys2Proof.Machine

/-- Division rounded up. -/
def ceilDiv (a b : Nat) : Nat := (a + b - 1) / b

/-- Sides per copy s (R23 step 1). -/
def Descriptor.sides (d : Descriptor) : Nat := ceilDiv d.pages d.nUp

/-- Impressions I (R23 step 2). -/
def Descriptor.impressions (d : Descriptor) : Nat := d.sides * d.copies

/-- Sheets H, for a job printed duplex or not (R23 step 3). -/
def Descriptor.sheets (d : Descriptor) (duplex : Bool) : Nat :=
  (if duplex then ceilDiv d.sides 2 else d.sides) * d.copies

/-- The estimate at given rates and surcharge: the base (R23 step 4), raised by the surcharge and rounded up
once (R24). -/
def Descriptor.estimate (d : Descriptor) (duplex : Bool) (impressionRate sheetRate surcharge : Nat) : Nat :=
  ceilDiv ((d.impressions * impressionRate + d.sheets duplex * sheetRate) * (100 + surcharge)) 100

/-- The rates of a size class (R21). -/
def RateTable.ofClass (r : RateTable) : SizeClass → ClassRates
  | .s => r.s
  | .l => r.l
  | .e => r.e

/-- The surcharge percent u of a job of a tenant at a station (R24): a guest of another tenant's station pays it,
and nobody pays one at a shared station, whose owner is tenant 0. -/
def Station.surchargeFor (x : Station) (tenant : Nat) : Nat :=
  if tenant ≠ 0 && x.owner ≠ 0 && tenant ≠ x.owner then x.surcharge else 0

/-- What a release at station `st` would store in a job (R23 to R25, R89): the estimate as the reservation,
the applied rates and surcharge, the fallback flag and the duplex decision. -/
def RateTable.chargingAt (r : RateTable) (st : Nat) (x : Station) (j : Job) (fallback : Bool) : Charging :=
  let d := j.descriptor
  let rates := r.ofClass d.sizeClass
  let duplex := d.duplex && x.duplex
  let rate := if d.colour && !fallback then rates.colour else rates.mono
  let u := x.surchargeFor j.tenant
  { station := st
    reservation := d.estimate duplex rate rates.sheet u
    monoRate := rates.mono
    colourRate := rate
    sheetRate := rates.sheet
    surcharge := u
    fallback := fallback
    duplexEffective := duplex }

/-- The recompute of a released job to mono, at the rates stored in it (R26); the release engine sets the
fallback flag (R107). -/
def Charging.recomputed (c : Charging) (d : Descriptor) : Charging :=
  { c with
    reservation := d.estimate c.duplexEffective c.monoRate c.sheetRate c.surcharge
    colourRate := c.monoRate
    fallback := true }

/-- Clamp reported counts (R27). -/
def Counts.clamped (c : Counts) : Counts :=
  { mono := min c.mono Config.maxReportedCount
    colour := min c.colour Config.maxReportedCount
    sheets := min c.sheets Config.maxReportedCount }

/-- The settlement charge A of clamped counts at a job's applied rates (R27). -/
def Charging.settlement (c : Charging) (n : Counts) : Nat :=
  ceilDiv ((n.mono * c.monoRate + n.colour * c.colourRate + n.sheets * c.sheetRate) * (100 + c.surcharge)) 100

end Sys2Proof.Machine
end

