-- ==== Sys2Proof/Machine/Queue.lean ====
section
/-! DEFINITION. What happens to released jobs in the stations' queues: deletion, return, the send check, and
the hand-over of a station's state to the release engine (R50, R61, R93, R103 to R107). -/

namespace Sys2Proof.Machine

/-! ### Deletion and return -/

/-- Delete a job: its slot is freed, the slot's generation advances, and the handle leaves its owner's list
with the job count (R61). -/
def State.deleteJob (s : State) (j : Job) : State :=
  let users := s.users.update j.owner
    (fun u => { u with owned := u.owned.erase j.handle, jobCount := u.jobCount - 1 })
  { s with jobs := s.jobs.remove (j.handle / 256), users := users }.setGeneration (j.handle / 256)
    ((s.generation (j.handle / 256) + 1) % 256)

/-- Take a job's entry out of a station's queue, with its deadlines (R69). -/
def State.removeEntry (s : State) (st handle : Nat) : State :=
  s.updateStation st (fun x => { x with queue := x.queue.filter (fun e => e.handle ≠ handle) })

/-- Give a job's stored reservation back to both accounts (R32). -/
def State.releaseReservation (s : State) (j : Job) : State :=
  match j.charging with
  | some c => s.unreserve j.owner j.tenant c.reservation
  | none => s

/-- The state a returned job goes to (R50). -/
def Job.returnState (j : Job) : JobState := if j.committed then .held else .receiving

/-- A job's record after a return: every field present only in QUEUED and PRINTING has left it (R50). -/
def Job.returned (j : Job) : Job := { j with state := j.returnState, charging := none }

/-- Whether a job stands in the store waiting for its owner's badge (R87). -/
def Job.unreleased (j : Job) : Bool := j.state = .receiving || j.state = .held

/-- The expiry of a job whose hold deadline has passed, if it is RECEIVING or HELD (R60).  DEDUCED (assumption 38): that the
deadline has passed is read of the clock as it stands at the check, so a deadline that was reached while its job was
QUEUED or PRINTING, and that a SET CLOCK has since put back above the clock, does not expire the job at its return and is
reached again; R60 and R169 may be read to expire it there. -/
def State.expireIfPassed (s : State) (handle : Nat) : State :=
  match s.jobNamed handle with
  | some j =>
    if j.unreleased && j.holdDeadline ≤ s.clock then
      (s.deleteJob j).notify (.jobExpired j.handle j.owner j.spoolRef)
    else s
  | none => s

/-- Send a queued job back to the store (R50, R103): its entry and reservation go, the notice is queued, and
it expires at once if its hold deadline has passed. -/
def State.sendBack (s : State) (st : Nat) (j : Job) (notice : NoticeBody) : State :=
  ((((s.removeEntry st j.handle).releaseReservation j).updateJob j.handle Job.returned).notify
    notice).expireIfPassed j.handle

/-- Return one entry with a reason (R103). -/
def State.returnEntry (st : Nat) (reason : ReturnReason) (s : State) (handle : Nat) : State :=
  match s.jobNamed handle with
  | some j => s.sendBack st j (.jobReturned j.handle j.owner j.spoolRef st j.returnState reason)
  | none => s.removeEntry st handle

/-- The handles of a station's WAITING entries that `p` holds of, in queue order. -/
def Station.waitingHandles (x : Station) (p : Entry → Bool) : List Nat :=
  (x.queue.filter (fun e => e.sub = .waiting && p e)).map (·.handle)

/-- Return the WAITING entries that `p` holds of, oldest first (R103). -/
def State.returnWaiting (s : State) (st : Nat) (p : Entry → Bool) (reason : ReturnReason) : State :=
  match s.stations.fetch st with
  | some x => (x.waitingHandles p).foldl (State.returnEntry st reason) s
  | none => s

/-! ### The send check -/

/-- The two states in which a station takes work (section 4.3). -/
def StationState.inUse : StationState → Bool
  | .inService | .degraded => true
  | .probation | .outOfService | .parked => false

/-- Whether a queue holds a SENT entry. -/
def Station.hasSent (x : Station) : Bool := x.queue.any (fun e => e.sub = .sent)

/-- Whether a station is sendable (R93). -/
def Station.sendable (x : Station) : Bool := x.state.inUse && !x.paused && !x.hasSent

/-- A station's send candidate: the oldest WAITING entry whose job is committed, with that job (R93). -/
def State.sendCandidate (s : State) : List Entry → Option (Entry × Job)
  | [] => none
  | e :: es =>
    match s.jobNamed e.handle with
    | some j => if e.sub = .waiting && j.committed then some (e, j) else s.sendCandidate es
    | none => s.sendCandidate es

/-- The EXPECT command of a released job: its token and descriptor summary (R93). -/
def expectCommand (j : Job) (c : Charging) : Command :=
  .expect (tokenOf j.handle) j.descriptor.pages j.descriptor.copies j.descriptor.nUp c.duplexEffective
    (j.descriptor.colour && !c.fallback) j.descriptor.sizeClass

/-- Send an entry (R93 steps 1 to 4). -/
def State.sendEntry (s : State) (st : Nat) (e : Entry) (j : Job) (c : Charging) : State :=
  let sent := { e with sub := .sent, startDeadline := some (s.minuteAfter s.startWindow) }
  ((s.updateStation st (fun x =>
      { x with queue := sent :: x.queue.filter (fun f => f.handle ≠ e.handle) })).handCommand st
    (expectCommand j c)).notify
    (.streamJob j.handle (tokenOf j.handle) j.spoolRef st c.fallback c.duplexEffective)

/-- The send check of a station (R93, R94). -/
def State.sendCheck (s : State) (st : Nat) : State :=
  match s.stations.fetch st with
  | none => s
  | some x =>
    if x.sendable then
      match s.sendCandidate x.queue with
      | some (e, j) =>
        match j.charging with
        | some c => s.sendEntry st e j c
        | none => s
      | none => s
    else s

/-! ### Loss of colour and of size classes -/

/-- Recompute a WAITING colour job to mono (R26) and report it (R107). -/
def State.fallBack (s : State) (st : Nat) (j : Job) (c : Charging) : State :=
  let c' := c.recomputed j.descriptor
  (((s.unreserve j.owner j.tenant (c.reservation - c'.reservation)).updateJob j.handle
      (fun j => { j with charging := some c' }))).notify
    (.jobFallback j.handle j.owner st c.reservation c'.reservation)

/-- The colour adjustment of one WAITING entry: a COLOUR job with its fallback flag clear is recomputed, or
returned with reason COLOUR (R107). -/
def State.adjustColour (st : Nat) (s : State) (handle : Nat) : State :=
  match s.jobNamed handle with
  | some j =>
    match j.charging with
    | some c =>
      if j.descriptor.colour && !c.fallback then
        if j.descriptor.fallback then s.fallBack st j c else State.returnEntry st .colour s handle
      else s
    | none => s
  | none => s

/-- The media adjustment of one WAITING entry whose job's size class the station has lost (R79). -/
def State.adjustMedia (st : Nat) (lost : SizeSet) (s : State) (handle : Nat) : State :=
  match s.jobNamed handle with
  | some j =>
    if j.charging.isSome && lost.contains j.descriptor.sizeClass then
      State.returnEntry st .media s handle
    else s
  | none => s

/-- The adjustment of one WAITING entry at a loss of capabilities, the colour first (R79, R103). -/
def State.adjustEntry (st : Nat) (colourLost : Bool) (sizesLost : SizeSet) (s : State) (handle : Nat) : State :=
  State.adjustMedia st sizesLost (if colourLost then State.adjustColour st s handle else s) handle

/-- Adjust a station's WAITING entries in queue order by `f`. -/
def State.adjustWaiting (s : State) (st : Nat) (f : State → Nat → State) : State :=
  match s.stations.fetch st with
  | some x => (x.waitingHandles (fun _ => true)).foldl f s
  | none => s

/-! ### The hand-over of a station's state -/

/-- Whether a fault's clear window is still running: it is user-clearable and its link WAITING (R104). -/
def FaultEntry.windowRuns (f : FaultEntry) : Bool :=
  userClearable f.cls &&
    match f.link with
    | .waiting _ => true
    | _ => false

/-- Whether the station's WAITING entries may be held over (R104). -/
def State.holdOverAllowed (s : State) (st : Nat) : Bool :=
  ((s.activeFaults st).filter (·.blocking)).all (·.windowRuns)

/-- An entry when its station is back in use: a SENT one loses its abandon deadline, a WAITING one its
hold-over flag (R106). -/
def Entry.backInUse (e : Entry) : Entry :=
  match e.sub with
  | .sent => { e with abandonDeadline := none }
  | .waiting => { e with holdOver := false }

/-- A WAITING entry held over (R104). -/
def Entry.heldOver (e : Entry) : Entry :=
  match e.sub with
  | .waiting => { e with holdOver := true }
  | .sent => e

/-- A SENT entry when its station leaves service: it receives an abandon deadline unless it carries one
(R106). -/
def Entry.abandonBy (m : Nat) (e : Entry) : Entry :=
  match e.sub with
  | .sent => { e with abandonDeadline := some (e.abandonDeadline.getD m) }
  | .waiting => e

/-- Change every entry of a station's queue. -/
def State.mapQueue (s : State) (st : Nat) (f : Entry → Entry) : State :=
  s.updateStation st (fun x => { x with queue := x.queue.map f })

/-- The hand-over of a station's state to the release engine (R104, R106, R107). -/
def State.handOver (s : State) (st : Nat) : State :=
  match s.stations.fetch st with
  | none => s
  | some x =>
    match x.state with
    | .inService => (s.mapQueue st Entry.backInUse).sendCheck st
    | .degraded =>
      ((s.mapQueue st Entry.backInUse).adjustWaiting st (State.adjustColour st)).sendCheck st
    | .outOfService =>
      (if s.holdOverAllowed st then s.mapQueue st Entry.heldOver
       else s.returnWaiting st (fun _ => true) .fault).mapQueue st
        (Entry.abandonBy (s.minuteAfter s.abandonWindow))
    | .probation | .parked => s

/-- The end of a clear window: every held-over entry is returned (R105). -/
def State.clearWindowEnds (s : State) (st : Nat) : State :=
  (s.returnWaiting st (·.holdOver) .clearWindow).sendCheck st

/-- Hand a WITHDRAW for a job's token to its station's controller (R58, R59, R101, R102). -/
def State.withdraw (s : State) (st : Nat) (j : Job) : State :=
  s.handCommand st (.withdraw (tokenOf j.handle))

end Sys2Proof.Machine
end

