-- ==== Sys2Proof/Machine/Faults.lean ====
section
/-! DEFINITION. The shared operations of the Callout Manager and the derivation of a station's state from its
faults (chapter 8; R72, R73). -/

namespace Sys2Proof.Machine

/-! ### Policy and numbers -/

/-- A class's callout delay (R163). -/
def Policy.delay (p : Policy) : FaultClass → Nat
  | .jam => p.jam
  | .door => p.door
  | .paper => p.paper
  | .toner => p.toner
  | .service => p.service
  | .silent => p.silent

/-- A tier's timeout (R163). -/
def Policy.timeout (p : Policy) (tier : Nat) : Nat :=
  match tier with
  | 1 => p.t1
  | 2 => p.t2
  | _ => p.t3

/-- The number after `n`, counting from 65,535 on to 1 (R136, R156). -/
def nextNumber (n : Nat) : Nat := if n < 65535 then n + 1 else 1

/-- The first number from `n` on that is not in use; at most `used.length` numbers are passed over. -/
def freeNumber (used : List Nat) : Nat → Nat → Nat
  | 0, n => n
  | k + 1, n => if used.contains n then freeNumber used k (nextNumber n) else n

/-! ### Lookups -/

/-- A station's fault entry of a class. -/
def State.faultAt (s : State) (st : Nat) (c : FaultClass) : Option FaultEntry :=
  s.faults.fetch (faultKey st c)

/-- Write a fault entry's link. -/
def State.setLink (s : State) (st : Nat) (c : FaultClass) (l : CalloutLink) : State :=
  { s with faults := s.faults.update (faultKey st c) (fun f => { f with link := l }) }

/-- The callout record of a station and class, with its number (R156). -/
def State.calloutFor (s : State) (st : Nat) (c : FaultClass) : Option (Nat × Callout) :=
  s.callouts.find? (fun p => p.2.station = st && p.2.cls = c)

/-- The floor of a station as its record holds it, for the notices (R157). -/
def State.floorOf (s : State) (st : Nat) : Nat :=
  match s.stations.fetch st with
  | some x => x.floor
  | none => 0

/-- The colour set reported with a callout: that of its fault, for TONER (R157). -/
def State.calloutColours (s : State) (st : Nat) (c : FaultClass) : Option ColourSet :=
  match c with
  | .toner => (s.faultAt st c).map (·.colours)
  | _ => none

/-- The since minute of a station's fault of a class. -/
def State.sinceOf (s : State) (st : Nat) (c : FaultClass) : Nat :=
  match s.faultAt st c with
  | some f => f.since
  | none => s.clock

/-! ### Callouts -/

/-- The number a new callout takes (R156). -/
def State.newCalloutNumber (s : State) : Nat :=
  freeNumber s.callouts.numbers s.callouts.length s.nextCallout

/-- Open a callout for a station and class and link its fault to it (R156, R157). -/
def State.openCallout (s : State) (st : Nat) (c : FaultClass) : State :=
  let n := s.newCalloutNumber
  let record : Callout :=
    { station := st, cls := c, tier := 1, state := .opened, opened := s.clock
      deadline := some (s.minuteAfter s.policy.t1), recurrence := 0 }
  ({ s with callouts := s.callouts.put n record, nextCallout := nextNumber n }.setLink st c (.called n)).notify
    (.calloutOpen n st (s.floorOf st) c (s.calloutColours st c) 1 0 false (s.sinceOf st c))

/-- A callout's record when it recurs: OPEN at the tier it had, its recurrence count raised, stopping at 255
(R161). -/
def Callout.recurs (x : Callout) (deadline : Nat) : Callout :=
  { x with state := .opened, deadline := some deadline, recurrence := min (x.recurrence + 1) 255 }

/-- A RESOLVED callout recurs (R161). -/
def State.recurCallout (s : State) (n : Nat) (x : Callout) : State :=
  let x' := x.recurs (s.minuteAfter (s.policy.timeout x.tier))
  ({ s with callouts := s.callouts.put n x' }.setLink x.station x.cls (.called n)).notify
    (.calloutOpen n x.station (s.floorOf x.station) x.cls (s.calloutColours x.station x.cls) x'.tier
      x'.recurrence true (s.sinceOf x.station x.cls))

/-- A fault's callout falls due (R151): a RESOLVED record recurs, else a callout opens while the table has
room, else the fault joins the pending list. -/
def State.fallDue (s : State) (st : Nat) (c : FaultClass) : State :=
  match s.calloutFor st c with
  | some (n, x) => s.recurCallout n x
  | none =>
    if s.callouts.length < Config.calloutCapacity then s.openCallout st c
    else { s.setLink st c (.pending s.clock) with pendingFaults := s.pendingFaults ++ [(st, c)] }

/-- The oldest pending fault leaves the list and gets a callout (R162). -/
def State.servePending (s : State) : State :=
  match s.pendingFaults with
  | [] => s
  | (st, c) :: rest => { s with pendingFaults := rest }.openCallout st c

/-- Serve the pending list for each of `n` freed places (R82 step 5, R162). -/
def State.servePendingTimes : Nat → State → State
  | 0, s => s
  | n + 1, s => State.servePendingTimes n s.servePending

/-- A callout is resolved by the removal of its fault (R161). -/
def State.resolveCallout (s : State) (n : Nat) : State :=
  match s.callouts.fetch n with
  | some x =>
    if x.state = .resolved then s
    else
      { s with callouts := s.callouts.put n { x with state := .resolved, deadline := none } }.notify
        (.calloutResolved n x.station (s.floorOf x.station) x.cls x.tier x.state)
  | none => s

/-! ### Toner suppression -/

/-- Whether a colour at a station is covered by an open reorder that is not overdue (R154). -/
def State.covered (s : State) (st : Nat) (col : Toner) : Bool :=
  s.reorders.any (fun r => r.station = st && r.colour = col && !r.overdue)

/-- Whether every colour of a set is covered. -/
def State.allCovered (s : State) (st : Nat) (cs : ColourSet) : Bool := cs.members.all (s.covered st)

/-- The planner reports a reorder opened for a colour (R154): a WAITING TONER entry that holds the colour and
is now covered in every colour becomes SUPPRESSED. -/
def State.reorderOpened (s : State) (st : Nat) (col : Toner) : State :=
  match s.faultAt st .toner with
  | some f =>
    match f.link with
    | .waiting _ =>
      if f.colours.contains col && s.allCovered st f.colours then s.setLink st .toner .suppressed else s
    | _ => s
  | none => s

/-- The planner reports a reorder overdue or cancelled for a colour (R155): a suppression whose set holds it
ends and the callout falls due. -/
def State.suppressionEnds (s : State) (st : Nat) (col : Toner) : State :=
  match s.faultAt st .toner with
  | some f =>
    match f.link with
    | .suppressed => if f.colours.contains col then s.fallDue st .toner else s
    | _ => s
  | none => s

/-! ### The station's state -/

/-- The derived state of a station (R72). -/
def State.derivedState (s : State) (st : Nat) : StationState :=
  if (s.activeFaults st).any (·.blocking) then .outOfService
  else if (s.activeFaults st).any (fun f => f.cls = .toner) then .degraded
  else .inService

/-- A change of a station's faults is handed to the directory (R73): the state is derived again, a change of
state is reported, and the state is handed to the release engine. -/
def State.faultsChanged (s : State) (st : Nat) : State :=
  match s.stations.fetch st with
  | none => s
  | some x =>
    match x.state with
    | .probation | .parked => s
    | old =>
      let new := s.derivedState st
      (if new = old then s
       else (s.updateStation st (fun x => { x with state := new })).notify
          (.stationState st old (some new) (s.activeClasses st))).handOver st

/-! ### Setting and clearing faults -/

/-- Give a new fault entry its link (R149, cases 1 to 5); a callout that falls due at once is opened, recurs
or pends. -/
def State.linkNewFault (s : State) (st : Nat) (c : FaultClass) (colours : ColourSet) (probation : Bool) : State :=
  if probation then s.setLink st c (.waiting none)
  else if c = .toner && s.allCovered st colours then s.setLink st c .suppressed
  else if (s.calloutFor st c).isSome || s.policy.delay c = 0 then s.fallDue st c
  else s.setLink st c (.waiting (some (s.minuteAfter (s.policy.delay c))))

/-- Whether a station stands in PROBATION. -/
def State.inProbation (s : State) (st : Nat) : Bool :=
  match s.stations.fetch st with
  | some x => x.state = .probation
  | none => false

/-- A fault is reported at a station that has no entry of its class (R149). -/
def State.createFault (s : State) (st : Nat) (c : FaultClass) (colours : ColourSet) : State :=
  let f : FaultEntry := { station := st, cls := c, colours := colours, since := s.clock, link := .waiting none }
  ({ s with faults := s.faults.put (faultKey st c) f }.linkNewFault st c colours (s.inProbation st)).faultsChanged st

/-- A repeat report of a TONER fault that adds colours (R150). -/
def State.addColours (s : State) (st : Nat) (f : FaultEntry) (added : ColourSet) : State :=
  let faults := s.faults.update (faultKey st .toner) (fun f => { f with colours := f.colours.union added })
  let s' := { s with faults := faults }
  (match f.link with
    | .suppressed => if s.allCovered st added then s' else s'.fallDue st .toner
    | _ => s').faultsChanged st

/-- A fault is set: a new entry, or a repeat report (R149, R150). -/
def State.setFault (s : State) (st : Nat) (c : FaultClass) (colours : ColourSet) : State :=
  match s.faultAt st c with
  | none => s.createFault st c colours
  | some f =>
    let added := colours.minus f.colours
    if c = .toner && !added.isEmpty then s.addColours st f added else s

/-- The removal of a fault entry, with what its link calls for (R152). -/
def State.removeFault (s : State) (st : Nat) (c : FaultClass) (f : FaultEntry) : State :=
  let s' := { s with faults := s.faults.remove (faultKey st c) }
  match f.link with
  | .waiting _ | .suppressed => s'
  | .pending _ => { s' with pendingFaults := s.pendingFaults.erase (st, c) }
  | .called n => s'.resolveCallout n

/-- A TONER clear that leaves colours in the set: a WAITING link whose remaining colours are all covered
becomes SUPPRESSED (R152). -/
def State.takeColours (s : State) (st : Nat) (f : FaultEntry) (rest : ColourSet) : State :=
  let link := match f.link with
    | .waiting d => if s.allCovered st rest then .suppressed else .waiting d
    | l => l
  { s with faults := s.faults.put (faultKey st .toner) { f with colours := rest, link := link } }

/-- A fault is cleared (R152); `colours` is read only for TONER. -/
def State.clearFault (s : State) (st : Nat) (c : FaultClass) (colours : ColourSet) : State :=
  match s.faultAt st c with
  | none => s
  | some f =>
    match c with
    | .toner =>
      let rest := f.colours.minus colours
      if rest = f.colours then s
      else if rest.isEmpty then (s.removeFault st c f).faultsChanged st
      else (s.takeColours st f rest).faultsChanged st
    | _ => (s.removeFault st c f).faultsChanged st

/-! ### Admission -/

/-- Start the callout delay of one WAITING entry at admission (R153). -/
def State.startDelay (st : Nat) (s : State) (c : FaultClass) : State :=
  match s.faultAt st c with
  | some f =>
    match f.link with
    | .waiting _ =>
      if c = .toner && s.allCovered st f.colours then s.setLink st c .suppressed
      else if s.policy.delay c = 0 then s.fallDue st c
      else s.setLink st c (.waiting (some (s.minuteAfter (s.policy.delay c))))
    | _ => s
  | none => s

/-- A station has been admitted: the delays of its WAITING entries start, in class order (R153). -/
def State.startDelays (s : State) (st : Nat) : State := allClasses.foldl (State.startDelay st) s

end Sys2Proof.Machine
end

