-- ==== Sys2Proof/Machine/Planner.lean ====
section
/-! DEFINITION. The shared operations of the Supplies Planner (chapter 7): attribution, level reports, samples,
evaluation, and the reorder list. -/

namespace Sys2Proof.Machine

/-- A 32-bit count that saturates (R129). -/
def satAdd (a b : Nat) : Nat := min (a + b) Config.maxCount32

/-- A colour of a code (0..3). -/
def tonerOf (n : Nat) : Toner :=
  match n with
  | 0 => .k
  | 1 => .c
  | 2 => .m
  | _ => .y

/-- Write a station's consumable record of a colour. -/
def State.putConsumable (s : State) (st : Nat) (col : Toner) (r : Consumable) : State :=
  { s with consumables := s.consumables.put (consumableKey st col) r }

/-- A consumable after impressions are attributed to it (R130). -/
def Consumable.gain (r : Consumable) (n : Nat) : Consumable :=
  { r with sinceChange := satAdd r.sinceChange n, interval := satAdd r.interval n }

/-- Attribute a settlement's impressions to a station's records: all of them to K, the colour ones to C, M
and Y (R130). -/
def State.attribute (s : State) (st : Nat) (n : Counts) : State :=
  { s with
    consumables :=
      (((s.consumables.update (consumableKey st .k) (fun r => r.gain (n.mono + n.colour))).update
        (consumableKey st .c) (fun r => r.gain n.colour)).update
        (consumableKey st .m) (fun r => r.gain n.colour)).update
        (consumableKey st .y) (fun r => r.gain n.colour) }

/-! ### The reorder list -/

/-- Change a tenant's supplies used (R2). -/
def State.setSuppliesUsed (s : State) (t : Nat) (f : Nat → Nat) : State :=
  { s with tenants := s.tenants.update t (fun x => { x with suppliesUsed := f x.suppliesUsed }) }

/-- Count one more cartridge; supplies used saturates at 65,535 (R1). -/
def countOne (n : Nat) : Nat := min (n + 1) 65535

/-- Whether a tenant's supplies mode and used leave room for a reorder (R137, R138, R143). -/
def Tenant.hasSupplies (t : Tenant) : Bool := t.suppliesMode = .unlimited || t.suppliesUsed < t.suppliesAllowance

/-- The reorder of a number. -/
def State.reorderAt (s : State) (n : Nat) : Option Reorder := s.reorders.find? (fun r => r.number = n)

/-- Change the reorder of a number, which keeps its place in the list. -/
def State.updateReorder (s : State) (n : Nat) (f : Reorder → Reorder) : State :=
  { s with reorders := s.reorders.map (fun r => if r.number = n then f r else r) }

/-- Write a consumable's open reorder. -/
def State.setOpenReorder (s : State) (st : Nat) (col : Toner) (n : Option Nat) : State :=
  { s with consumables := s.consumables.update (consumableKey st col) (fun r => { r with reorder := n }) }

/-- The REORDER PROPOSED notice of a reorder, with its tenant's counts as they stand (R137). -/
def State.proposedNotice (s : State) (r : Reorder) (approved promoted : Bool) : NoticeBody :=
  .reorderProposed r.number r.station r.colour r.tenant r.cause r.level r.cover
    (s.tenantOf r.tenant).suppliesUsed (s.tenantOf r.tenant).suppliesAllowance approved promoted

/-- The number a new reorder takes (R136). -/
def State.newReorderNumber (s : State) : Nat :=
  freeNumber (s.reorders.map (·.number)) s.reorders.length s.nextReorder

/-- Create a reorder for a consumable, charged to a tenant (R136, R137), and tell the callout manager. -/
def State.createReorder (s : State) (st : Nat) (col : Toner) (t : Nat) (cause : ReorderCause)
    (level cover : Nat) : State :=
  let n := s.newReorderNumber
  let proposed := (s.tenantOf t).hasSupplies
  let r : Reorder :=
    { number := n, station := st, colour := col, tenant := t
      state := if proposed then .proposed else .deferred
      created := s.clock, cause := cause, level := level, cover := cover }
  let s' := ({ s with reorders := s.reorders ++ [r], nextReorder := nextNumber n }.setOpenReorder st col (some n))
  let s' := if proposed then s'.setSuppliesUsed t countOne else s'
  (s'.notify (if proposed then s'.proposedNotice r false false
    else .reorderDeferred n st col t cause level cover (s'.tenantOf t).suppliesUsed
      (s'.tenantOf t).suppliesAllowance)).reorderOpened st col

/-- A reorder leaves the list and its consumable's record. -/
def State.dropReorder (s : State) (r : Reorder) : State :=
  { s with reorders := s.reorders.filter (fun x => x.number ≠ r.number) }.setOpenReorder r.station r.colour none

/-- Cancel a reorder (R141): its tenant is credited unless it was DEFERRED, and the callout manager is told. -/
def State.cancelOne (s : State) (r : Reorder) : State :=
  let s' := if r.state = .deferred then s else s.setSuppliesUsed r.tenant (· - 1)
  ((s'.dropReorder r).notify
    (.reorderCancelled r.number r.station r.colour r.tenant r.state)).suppressionEnds r.station r.colour

/-- Cancel every open reorder of a station that `p` holds of, in an order the manual leaves open
(R82, R129; assumption 2). -/
def State.cancelReorders (s : State) (p : Reorder → Bool) : State :=
  let rs := s.reorders.filter p
  (s.freeOrder rs).foldl State.cancelOne (s.countChoices rs.length)

/-- Promote one reorder of the walk (R143). -/
def State.promoteOne (s : State) (r : Reorder) : State :=
  if r.state = .deferred && (s.tenantOf r.tenant).hasSupplies then
    let s' := (s.updateReorder r.number (fun x => { x with state := .proposed })).setSuppliesUsed r.tenant countOne
    s'.notify (s'.proposedNotice r false true)
  else s

/-- The end of the supplies period: every supplies used becomes 0, and DEFERRED reorders are promoted in
creation order (R142, R143). -/
def State.endSuppliesPeriod (s : State) : State :=
  s.reorders.foldl State.promoteOne
    { s with tenants := s.tenants.mapRecords (fun _ t => { t with suppliesUsed := 0 }) }

/-! ### The forecast -/

/-- The cover of a consumable (R134). -/
def Consumable.forecast (r : Consumable) : Nat :=
  match r.level with
  | none => 999
  | some l => if r.yield = 0 || r.rate = 0 then 999 else min (l * r.yield / r.rate) 999

/-- The cause of a trigger, if a consumable is triggered under a policy (R135). -/
def Consumable.trigger (r : Consumable) (leadCover floorPercent : Nat) : Option (ReorderCause × Nat) :=
  match r.level with
  | none => none
  | some l =>
    if r.reorder.isSome then none
    else if r.cover ≤ leadCover then some (.cover, l)
    else if l ≤ floorPercent then some (.floor, l)
    else none

/-- The evaluation of one consumable (R135). -/
def State.evaluate (st : Nat) (s : State) (col : Toner) : State :=
  match s.consumables.fetch (consumableKey st col) with
  | none => s
  | some r =>
    let r' := { r with cover := r.forecast }
    let s' := s.putConsumable st col r'
    match s.stations.fetch st with
    | none => s'
    | some x =>
      if x.state = .probation then s'
      else
        match r'.trigger (s.tenantOf x.owner).leadCover (s.tenantOf x.owner).floorPercent with
        | some (cause, l) =>
          if s.reorders.length < Config.reorderCapacity then
            s'.createReorder st col x.owner cause l r'.cover
          else s'
        | none => s'

/-- The evaluation of one station's consumables (R135).  DEDUCED (assumption 37): they are evaluated in the order K, C, M,
Y after a LEVELS event, the order in which R131 takes the reported levels and R133 a sample's evaluations; R131 and R135
state none for these evaluations, and it decides the reorders' numbers and which of them is PROPOSED and which DEFERRED. -/
def State.evaluateStation (s : State) (st : Nat) : State := allToners.foldl (State.evaluate st) s

/-! ### Level reports -/

/-- An install (R132): the level is new, and an open reorder has been received. -/
def State.install (s : State) (st : Nat) (col : Toner) (r : Consumable) (level : Nat) : State :=
  let s' := s.putConsumable st col { r with level := some level, sinceChange := 0 }
  match r.reorder with
  | none => s'
  | some n =>
    match s.reorderAt n with
    | some o => (s'.dropReorder o).notify (.reorderReceived n st col o.tenant o.state)
    | none => s'

/-- A consumable after a measured drop to a level (R131). -/
def Consumable.dropTo (r : Consumable) (old new : Nat) : Consumable :=
  if r.sinceChange = 0 then { r with level := some new }
  else
    let observed := min (r.sinceChange / (old - new)) 65535
    { r with
      level := some new
      yield := if r.yield = 0 then observed else (3 * r.yield + observed) / 4
      sinceChange := 0 }

/-- One colour of a level report (R131); `none` is UNKNOWN. -/
def State.takeLevel (st : Nat) (s : State) (p : Toner × Option Nat) : State :=
  match s.consumables.fetch (consumableKey st p.1), p.2 with
  | some r, some new =>
    match r.level with
    | none =>
      s.putConsumable st p.1 { r with level := some new, sinceChange := 0 }
    | some old =>
      if new < old then
        s.putConsumable st p.1 (r.dropTo old new)
      else if old + 40 ≤ new then s.install st p.1 r new
      else s.putConsumable st p.1 { r with level := some new }
  | _, _ => s

/-! ### Samples -/

/-- A consumable after a sample (R133). -/
def Consumable.sampled (r : Consumable) : Consumable :=
  { r with
    rate := if r.rateLearnt then (3 * r.rate + r.interval) / 4 else r.interval
    rateLearnt := true
    interval := 0 }

/-- Whether a station has consumable records. -/
def State.hasConsumables (s : State) (st : Nat) : Bool :=
  allToners.any (fun col => s.consumables.has (consumableKey st col))

/-- The sample at an IC2 expiry (R133): every rate is learnt, every consumable is evaluated in ascending
station number and the order K, C, M, Y, and fresh levels are asked for. -/
def State.sample (s : State) : State :=
  let s1 := { s with consumables := s.consumables.mapRecords (fun _ r => r.sampled) }
  let s2 := s1.consumables.numbers.foldl (fun s k => State.evaluate (k / 4) s (tonerOf (k % 4))) s1
  (s2.stations.numbers.filter s2.hasConsumables).foldl (fun s st => s.handCommand st .queryLevels) s2

end Sys2Proof.Machine
end

