-- ==== Sys2Proof/Machine/Directory.lean ====
section
/-! DEFINITION. The shared operations of the Station Directory: creating a record, and a change of
capabilities (R74, R79). -/

namespace Sys2Proof.Machine

/-- The colours of a station's consumable records besides K. -/
def colourToners : List Toner := [.c, .m, .y]

/-- The set C, M and Y. -/
def colourOnly : ColourSet := ⟨false, true, true, true⟩

/-- Create consumable records at a station (R129). -/
def State.addConsumables (s : State) (st : Nat) (cols : List Toner) : State :=
  { s with consumables := cols.foldl (fun t col => t.put (consumableKey st col) {}) s.consumables }

/-- Remove consumable records of a station (R129). -/
def State.removeConsumables (s : State) (st : Nat) (cols : List Toner) : State :=
  { s with consumables := cols.foldl (fun t col => t.remove (consumableKey st col)) s.consumables }

/-- A HELLO at a sweep trial creates a station record in PROBATION, its consumable records and its link
record (R74, R111, R125, R129), and asks for the levels of the new records (assumption 8). -/
def State.createStation (s : State) (st model : Nat) (colour duplex : Bool) (sizes : SizeSet) (seq : Bool) : State :=
  let s1 := { s with
    stations := s.stations.put st { model := model, colour := colour, duplex := duplex, sizes := sizes }
    links := s.links.put st { accepted := some seq } }
  ((s1.addConsumables st (if colour then allToners else [.k])).handCommand st .queryLevels).notify
    (.stationFound st model colour duplex sizes)

/-- The size classes of one set that another lacks. -/
def SizeSet.lostIn (old new : SizeSet) : SizeSet := ⟨old.s && !new.s, old.l && !new.l, old.e && !new.e⟩

/-- Whether a set of size classes is empty. -/
def SizeSet.isEmpty (x : SizeSet) : Bool := !(x.s || x.l || x.e)

/-- The loss of the colour capability at CMG, SDIR and SPL, in that order (R79): C, M and Y leave the TONER
fault, and the records of C, M and Y go, their open reorders cancelled first. -/
def State.loseColour (s : State) (st : Nat) : State :=
  ((s.clearFault st .toner colourOnly).cancelReorders
    (fun r => r.station = st && r.colour ≠ .k)).removeConsumables st colourToners

/-- The effects of a change of a station's capabilities, the new ones having been written (R79, R107, R129).  DEDUCED
(assumption 19): where one change gains colour and loses a size class, QUERY LEVELS is handed over before the WAITING
entries are gone through and the send check runs, an order that no rule states. -/
def State.capabilitiesChanged (s : State) (st : Nat) (old new : Station) : State :=
  let lost := old.colour && !new.colour
  let sizesLost := old.sizes.lostIn new.sizes
  let s1 := if lost then s.loseColour st else s
  let s2 := if new.colour && !old.colour then (s1.addConsumables st colourToners).handCommand st .queryLevels
            else s1
  if lost || !sizesLost.isEmpty then
    (s2.adjustWaiting st (State.adjustEntry st lost sizesLost)).sendCheck st
  else s2

end Sys2Proof.Machine
end

