-- ==== Sys2Proof/Machine/Settle.lean ====
section
/-! DEFINITION. The end of a job and the interval counters' expiries (R99, R173, R174). -/

namespace Sys2Proof.Machine

/-- The reminder of one callout at an IC3 expiry: queued when it is STALLED (R159). -/
def State.remind (s : State) (p : Nat × Callout) : State :=
  if p.2.state = .stalled then
    s.notify (.calloutStalled p.1 p.2.station (s.floorOf p.2.station) p.2.cls p.2.tier p.2.opened p.2.recurrence true)
  else s

/-- The owner's action on an expiry of a counter (R174). -/
def State.ownerActs (s : State) (counter : Nat) : State :=
  match counter with
  | 0 => s.rollUsers
  | 1 => s.rollTenants.endSuppliesPeriod
  | 2 => s.sample
  | _ => s.callouts.foldl State.remind s

/-- An expiry: INTERVAL EXPIRED is queued, and the owner acts (R174). -/
def State.expire (s : State) (e : Expiry) : State :=
  (s.notify (.intervalExpired e.counter e.source e.preload)).ownerActs e.counter

/-- Write a counter's count. -/
def State.setCount (s : State) (n count : Nat) : State :=
  { s with counters := s.counters.write n { s.counters.item n with count := count } }

/-- A counter takes units one settlement hands it (R173): each time its count reaches 0 it is reloaded and its
expiry carried out whole before the rest of the units is taken.  The first argument bounds the expiries. -/
def State.takeUnits (n : Nat) : Nat → Nat → State → State
  | 0, _, s => s
  | k + 1, units, s =>
    let c := s.counters.item n
    if units < c.count then s.setCount n (c.count - units)
    else
      State.takeUnits n k (units - c.count)
        ((s.setCount n c.preload).expire { counter := n, source := c.source, preload := c.preload })

/-- Whether a counter is running with source IMPRESSIONS (R172). -/
def Counter.countsImpressions (c : Counter) : Bool := c.source = .impressions && c.preload ≠ 0

/-- A settlement's impressions reach every running IMPRESSIONS counter, the counters in an order the manual
leaves open (R173).  DESIGN CHOICE (assumption 2): one counter takes all its units, with every expiry they bring, before
the next takes any, so that the expiries of two counters do not interleave. -/
def State.takeImpressions (s : State) (units : Nat) : State :=
  let cs := [0, 1, 2, 3].filter (fun n => (s.counters.item n).countsImpressions)
  (s.freeOrder cs).foldl (fun s n => State.takeUnits n (units + 1) units s) (s.countChoices cs.length)

/-- A lifetime counter, which wraps (R81). -/
def wrapAdd (a b : Nat) : Nat := (a + b) % (Config.maxCount32 + 1)

/-- Add a settlement's counts to a station's lifetime counters (R81). -/
def State.addLifetime (s : State) (st : Nat) (n : Counts) : State :=
  s.updateStation st (fun x =>
    { x with
      lifeMono := wrapAdd x.lifeMono n.mono
      lifeColour := wrapAdd x.lifeColour n.colour
      lifeSheets := wrapAdd x.lifeSheets n.sheets })

/-- JOB DELETED with cause CANCEL, when the job's cancel was requested (R58). -/
def State.reportCancelled (s : State) (j : Job) : State :=
  if j.cancelRequested then s.notify (.jobDeleted j.handle j.owner j.spoolRef .cancel) else s

/-- The settlement of both accounts (R33). -/
def State.settle (s : State) (j : Job) (c : Charging) (charge : Nat) : State :=
  (s.settleUser j.owner c.reservation charge).settleTenant j.tenant c.reservation charge

/-- End a job, steps 1 to 6 of R99, with the notice of step 2 given the charge and the clamped counts. -/
def State.endJob (s : State) (st : Nat) (j : Job) (c : Charging) (raw : Counts)
    (notice : Nat → Counts → NoticeBody) : State :=
  let n := raw.clamped
  let charge := c.settlement n
  let s2 := ((s.settle j c charge).notify (notice charge n))
  let s3 := (s2.addLifetime st n).attribute st n
  let s4 := ((s3.removeEntry st j.handle).deleteJob j).reportCancelled j
  (s4.takeImpressions (n.mono + n.colour)).sendCheck st

end Sys2Proof.Machine
end

