-- ==== Sys2Proof/Machine/Release.lean ====
section
/-! DEFINITION. The release engine's own operations: a badge presentation and its probe, the reports of a
station, and the deadlines of queue entries (chapter 5); with the due minutes and tier deadlines of the
callout manager and the due minutes of reorders, which the clock makes due in the same way (R169). -/

namespace Sys2Proof.Machine

/-! ### A badge presentation -/

/-- The badge lookup (R5); no user holds badge 0. -/
def State.badgeHolder (s : State) (badge : Nat) : Option (Nat × User) :=
  if badge = 0 then none else s.users.find? (fun p => p.2.badge = badge)

/-- Where a presentation of a user found ends before candidate selection, if it does (R86). -/
def earlyEnd (x : Station) (u : User) : Option DisplayResult :=
  if u.state = .suspended then some .suspended
  else if !x.state.inUse then some .stationDown
  else if !x.admits u.tenant then some .notPermittedHere
  else none

/-- Whether the job a handle names stands RECEIVING or HELD. -/
def State.isUnreleased (s : State) (handle : Nat) : Bool :=
  match s.jobNamed handle with
  | some j => j.unreleased
  | none => false

/-- The candidates of a presentation, oldest first, up to the release depth (R87). -/
def State.candidates (s : State) (u : User) : List Nat :=
  (u.owned.filter s.isUnreleased).take (s.tenantOf u.tenant).releaseDepth

/-- Whether a job at a station needs fallback to be released there (R88 step 2). -/
def Station.needsFallback (x : Station) (j : Job) : Bool :=
  j.descriptor.colour && (!x.colour || x.state = .degraded)

/-- The outcome of one candidate and, from step 3 on, what its release would store (R88). -/
def State.judge (s : State) (st : Nat) (x : Station) (u : User) (j : Job) : Verdict × Option Charging :=
  if !x.sizes.contains j.descriptor.sizeClass then (.skip .media, none)
  else if x.needsFallback j && !j.descriptor.fallback then (.skip .colour, none)
  else
    let c := s.rates.chargingAt st x j (x.needsFallback j)
    let t := s.tenantOf j.tenant
    if !(s.userTerms u).fits u.account c.reservation then (.skip .userQuota, some c)
    else if !t.terms.fits t.account c.reservation then (.skip .tenantQuota, some c)
    else if x.capacity ≤ x.depth then (.skip .queueFull, some c)
    else if x.needsFallback j then (.releaseFallback, some c)
    else (.release, some c)

/-- The entry a released job stands in (R89). -/
def State.newEntry (s : State) (j : Job) : Entry :=
  { handle := j.handle
    released := s.clock
    commitDeadline :=
      if j.committed then none else some (s.minuteAfter (s.tenantOf j.tenant).commitWindow) }

/-- STATION BUSY, when an append raises a queue's depth to the mid-water mark (R71). -/
def State.reportBusy (s : State) (st : Nat) (x : Station) : State :=
  if x.depth < x.midWater && x.midWater ≤ x.depth + 1 then
    s.notify (.stationBusy st (x.depth + 1) x.capacity)
  else s

/-- Release a candidate (R89). -/
def State.releaseJob (s : State) (st : Nat) (x : Station) (j : Job) (c : Charging) : State :=
  let e := s.newEntry j
  (((s.reserve j.owner j.tenant c.reservation).updateJob j.handle
      (fun j => { j with state := .queued, charging := some c })).updateStation st
    (fun x => { x with queue := x.queue ++ [e] })).reportBusy st x

/-- Examine the candidates in order, each against what the earlier ones left (R88); the examination stops at
QUEUE_FULL. -/
def State.examine (st user : Nat) : List Nat → State → State × List Examined
  | [], s => (s, [])
  | h :: hs, s =>
    match s.stations.fetch st, s.users.fetch user, s.jobNamed h with
    | some x, some u, some j =>
      match s.judge st x u j with
      | (.skip .queueFull, c) => (s, [⟨h, .skip .queueFull, c.map (·.reservation)⟩])
      | (.skip r, c) =>
        let rest := State.examine st user hs s
        (rest.1, ⟨h, .skip r, c.map (·.reservation)⟩ :: rest.2)
      | (v, some c) =>
        let rest := State.examine st user hs (s.releaseJob st x j c)
        (rest.1, ⟨h, v, some c.reservation⟩ :: rest.2)
      | (_, none) => State.examine st user hs s
    | _, _, _ => State.examine st user hs s

/-- Whether a station may be suggested to a tenant's user (R91). -/
def Station.qualifies (x : Station) (tenant : Nat) : Bool :=
  x.state.inUse && x.admits tenant && x.depth < x.capacity

/-- The neighbour suggestion (R91). -/
def State.suggest (s : State) (tenant : Nat) : List Nat → Option Suggestion
  | [] => none
  | n :: ns =>
    match s.stations.fetch n with
    | some x => if x.qualifies tenant then some ⟨n, x.floor⟩ else s.suggest tenant ns
    | none => s.suggest tenant ns

/-- Whether an examined candidate was released. -/
def Examined.released (e : Examined) : Bool :=
  match e.verdict with
  | .release | .releaseFallback => true
  | .skip _ => false

/-- Why an examined candidate was skipped. -/
def Examined.skipReason (e : Examined) : Option SkipReason :=
  match e.verdict with
  | .skip r => some r
  | _ => none

/-- The SHOW of a presentation that came to examine candidates (R90). -/
def State.releaseShow (s : State) (tenant : Nat) (neighbours : List Nat) (xs : List Examined) : Show :=
  let first := (xs.filterMap Examined.skipReason).head?
  { result := .release
    released := (xs.filter Examined.released).length
    fallback := (xs.filter (fun e => e.verdict = .releaseFallback)).length
    skipped := (xs.filter (fun e => !e.released)).length
    firstSkip := first
    suggestion := if first = some .queueFull then s.suggest tenant neighbours else none }

/-- A presentation by the user found (or by none) at a station: the state its releases leave, its display
result, and the candidates examined (R86 to R91). -/
def State.present (s : State) (st : Nat) (x : Station) (found : Option (Nat × User)) :
    State × Show × List Examined :=
  match found with
  | none => (s, { result := .notEnrolled }, [])
  | some (n, u) =>
    match earlyEnd x u with
    | some .stationDown =>
      (s, { result := .stationDown, suggestion := s.suggest u.tenant x.neighbours }, [])
    | some r => (s, { result := r }, [])
    | none =>
      match s.candidates u with
      | [] => (s, { result := .nothingHeld }, [])
      | hs =>
        let r := State.examine st n hs s
        (r.1, r.1.releaseShow u.tenant x.neighbours r.2, r.2)

/-- A badge presentation at a station (R86 to R90): its SHOW is handed over, and then the send check runs. -/
def State.presentBadge (s : State) (st badge : Nat) : State :=
  match s.stations.fetch st with
  | none => s
  | some x =>
    let r := s.present st x (s.badgeHolder badge)
    let s' := r.1.handShow st r.2.1
    if r.2.1.result = .release then s'.sendCheck st else s'

/-! ### Reports from the station -/

/-- Whether a station's queue holds a SENT entry of a job. -/
def Station.hasSentEntry (x : Station) (handle : Nat) : Bool :=
  x.queue.any (fun e => e.handle = handle && e.sub = .sent)

/-- The job a report's token matches at a station (R47, R96). -/
def State.matchReport (s : State) (st token : Nat) : Option (Job × Charging) :=
  match s.jobs.fetch (token / 64), s.stations.fetch st with
  | some j, some x =>
    match j.charging with
    | some c =>
      if s.generation (token / 64) % 64 = token % 64 && c.station = st && x.hasSentEntry j.handle then
        some (j, c)
      else none
    | none => none
  | _, _ => none

/-- Change the entry of a job in a station's queue. -/
def State.updateEntry (s : State) (st handle : Nat) (f : Entry → Entry) : State :=
  s.mapQueue st (fun e => if e.handle = handle then f e else e)

/-- A job starts: QUEUED becomes PRINTING and the start deadline is dropped (R97). -/
def State.startJob (s : State) (st : Nat) (j : Job) : State :=
  match j.state with
  | .queued =>
    (s.updateJob j.handle (fun j => { j with state := .printing })).updateEntry st j.handle
      (fun e => { e with startDeadline := none })
  | _ => s

/-- JOB START (R97). -/
def State.reportStart (s : State) (st token : Nat) : State :=
  match s.matchReport st token with
  | some (j, _) => s.startJob st j
  | none => s

/-- JOB PROGRESS (R98). -/
def State.reportProgress (s : State) (st token : Nat) (n : Counts) : State :=
  match s.matchReport st token with
  | some (j, _) => (s.startJob st j).updateJob j.handle (fun j => { j with progress := some n.clamped })
  | none => s

/-- JOB END and JOB ABORT (R99). -/
def State.reportEnd (s : State) (st token : Nat) (n : Counts) (aborted : Option AbortReason) : State :=
  match s.matchReport st token with
  | some (j, c) =>
    s.endJob st j c n (fun charge n => .jobDone j.handle j.owner j.spoolRef st charge n aborted c.fallback)
  | none => s

/-! ### Deadlines -/

/-- The released job of a slot with its queue entry. -/
def State.entryOfSlot (s : State) (slot : Nat) : Option (Job × Charging × Entry) :=
  match s.jobs.fetch slot with
  | some j =>
    match j.charging with
    | some c =>
      match s.stations.fetch c.station with
      | some x => (x.queue.find? (fun e => e.handle = j.handle)).map (fun e => (j, c, e))
      | none => none
    | none => none
  | none => none

/-- Whether a deadline is set and the clock has reached or passed it (R169).  DESIGN CHOICE (assumption 10): the clock
is read at the deadline's own step, so a SET CLOCK back that is taken between the minute that reached the deadline and
that step leaves it not fallen due. -/
def State.isDue (s : State) (d : Option Nat) : Bool :=
  match d with
  | some m => m ≤ s.clock
  | none => false

/-- The hold deadline of a slot's job falls due (R60). -/
def State.holdFallsDue (s : State) (slot : Nat) : State :=
  match s.jobs.fetch slot with
  | some j => s.expireIfPassed j.handle
  | none => s

/-- The commit deadline of a slot's job falls due (R100). -/
def State.commitFallsDue (s : State) (slot : Nat) : State :=
  match s.entryOfSlot slot with
  | some (j, c, e) =>
    if s.isDue e.commitDeadline && !j.committed then
      (s.sendBack c.station j (.commitLapsed j.handle j.owner j.spoolRef c.station)).sendCheck c.station
    else s
  | none => s

/-- A job whose cancel was requested goes at its start deadline (R58): its entry and reservation go, and it
is deleted with JOB DELETED. -/
def State.dropCancelled (s : State) (st : Nat) (j : Job) : State :=
  (((s.removeEntry st j.handle).releaseReservation j).deleteJob j).notify
    (.jobDeleted j.handle j.owner j.spoolRef .cancel)

/-- The start deadline of a slot's job falls due (R101). -/
def State.startFallsDue (s : State) (slot : Nat) : State :=
  match s.entryOfSlot slot with
  | some (j, c, e) =>
    if s.isDue e.startDeadline then
      let s' := s.withdraw c.station j
      (if j.cancelRequested then s'.dropCancelled c.station j
       else State.returnEntry c.station .noStart s' j.handle).sendCheck c.station
    else s
  | none => s

/-- The abandon deadline of a slot's job falls due (R102). -/
def State.abandonFallsDue (s : State) (slot : Nat) : State :=
  match s.entryOfSlot slot with
  | some (j, c, e) =>
    if s.isDue e.abandonDeadline then
      (s.withdraw c.station j).endJob c.station j c (j.progress.getD {})
        (fun charge n => .jobAbandoned j.handle j.owner j.spoolRef c.station charge n c.fallback
          (s.blockingClasses c.station))
    else s
  | none => s

/-- The due minute of a fault falls due (R151): its callout falls due, and the end of a clear window is told
to the release engine. -/
def State.faultFallsDue (s : State) (st : Nat) (c : FaultClass) : State :=
  match s.faultAt st c with
  | some f =>
    match f.link with
    | .waiting d =>
      if s.isDue d then
        if userClearable c then (s.fallDue st c).clearWindowEnds st else s.fallDue st c
      else s
    | _ => s
  | none => s

/-- The tier deadline of a callout falls due (R158): it escalates, or stalls at tier 3. -/
def State.tierFallsDue (s : State) (n : Nat) : State :=
  match s.callouts.fetch n with
  | some x =>
    if x.state = .opened && s.isDue x.deadline then
      if x.tier < 3 then
        let x' := { x with tier := x.tier + 1, deadline := some (s.minuteAfter (s.policy.timeout (x.tier + 1))) }
        { s with callouts := s.callouts.put n x' }.notify
          (.calloutEscalated n x.station (s.floorOf x.station) x.cls x'.tier x.recurrence)
      else
        { s with callouts := s.callouts.put n { x with state := .stalled, deadline := none } }.notify
          (.calloutStalled n x.station (s.floorOf x.station) x.cls x.tier x.opened x.recurrence false)
    else s
  | none => s

/-- The due minute of a reorder falls due (R140): it becomes overdue, and the callout manager is told. -/
def State.reorderFallsDue (s : State) (n : Nat) : State :=
  match s.reorderAt n with
  | some r =>
    match r.due with
    | some d =>
      if r.state = .placed && !r.overdue && d ≤ s.clock then
        ((s.updateReorder n (fun r => { r with overdue := true })).notify
          (.reorderOverdue n r.station r.colour r.tenant d)).suppressionEnds r.station r.colour
      else s
    | none => s
  | none => s

/-- The deadlines the part keeps (R169), each by the record that keeps it. -/
inductive Deadline where
  | hold (slot : Nat)
  | commit (slot : Nat)
  | start (slot : Nat)
  | abandon (slot : Nat)
  | fault (station : Nat) (cls : FaultClass)
  | tier (callout : Nat)
  | reorder (number : Nat)
  deriving DecidableEq, Repr

/-- A deadline falls due at its owner (R169); nothing comes of one that the clock has not reached. -/
def State.fallsDue (s : State) : Deadline → State
  | .hold slot => s.holdFallsDue slot
  | .commit slot => s.commitFallsDue slot
  | .start slot => s.startFallsDue slot
  | .abandon slot => s.abandonFallsDue slot
  | .fault st c => s.faultFallsDue st c
  | .tier n => s.tierFallsDue n
  | .reorder n => s.reorderFallsDue n

/-- The deadlines of one slot that the clock has reached. -/
def State.dueOfSlot (s : State) (slot : Nat) : List Deadline :=
  (match s.jobs.fetch slot with
    | some j => if j.holdDeadline ≤ s.clock then [.hold slot] else []
    | none => []) ++
  (match s.entryOfSlot slot with
    | some (_, _, e) =>
      (if s.isDue e.commitDeadline then [.commit slot] else []) ++
      (if s.isDue e.startDeadline then [.start slot] else []) ++
      (if s.isDue e.abandonDeadline then [.abandon slot] else [])
    | none => [])

/-- The due minutes of faults that the clock has reached. -/
def State.dueFaults (s : State) : List Deadline :=
  s.faults.filterMap (fun p =>
    match p.2.link with
    | .waiting d => if s.isDue d then some (.fault p.2.station p.2.cls) else none
    | _ => none)

/-- The tier deadlines that the clock has reached. -/
def State.dueTiers (s : State) : List Deadline :=
  s.callouts.filterMap (fun p => if s.isDue p.2.deadline then some (.tier p.1) else none)

/-- The due minutes of reorders that the clock has reached. -/
def State.dueReorders (s : State) : List Deadline :=
  s.reorders.filterMap (fun r => if s.isDue r.due && !r.overdue then some (.reorder r.number) else none)

/-- Every deadline that the clock has reached and that has not fallen due. -/
def State.dueDeadlines (s : State) : List Deadline :=
  s.jobs.numbers.flatMap s.dueOfSlot ++ s.dueFaults ++ s.dueTiers ++ s.dueReorders

/-- Every deadline that the clock has reached falls due, each once, in an order the manual leaves open
(R169, R170; assumption 2). -/
def State.allFallDue (s : State) : State :=
  let ds := s.dueDeadlines
  (s.freeOrder ds).foldl State.fallsDue (s.countChoices ds.length)

end Sys2Proof.Machine
end

