-- ==== Sys2Proof/Machine/Riser.lean ====
section
/-! DEFINITION. The riser link controllers (chapter 6): the pass and its polls, the outcome of a poll, the
routing of events, sweep trials, and the commands of the table that are steps of a riser. -/

namespace Sys2Proof.Machine

/-! ### A controller's own state -/

/-- Change a riser controller's state. -/
def State.updateRiser (s : State) (r : Nat) (f : Riser → Riser) : State :=
  { s with risers := s.risers.write r (f (s.risers.item r)) }

/-- Change a station's link record. -/
def State.updateLink (s : State) (st : Nat) (f : Link → Link) : State :=
  { s with links := s.links.update st f }

/-- The address after a drop address; after 24 a new cycle begins at 1 (R112). -/
def nextDrop (d : Nat) : Nat := if d < 24 then d + 1 else 1

/-- A step on a riser happens only while RESET is not held: under RESET every RnDIR is low (R179). -/
def State.whileRunning (s : State) (f : State → State) : State := if s.resetHeld then s else f s

/-! ### The pass -/

/-- Whether an address is on the riser's sweep list. -/
def Riser.sweeps (x : Riser) (d : Nat) : Bool :=
  match x.sweep with
  | some w => w.addresses.contains d
  | none => false

/-- Whether the pass visits an address that it reaches (R112). -/
def State.visits (s : State) (r d : Nat) : Bool :=
  match s.links.fetch (stationAt r d) with
  | some l => !l.silent || l.phase = 0
  | none => (s.risers.item r).sweeps d

/-- The pass goes past an address that it does not visit: a silent station's phase above 0 falls by one
(R112). -/
def State.passOver (s : State) (r d : Nat) : State := s.updateLink (stationAt r d) (fun l => { l with phase := l.phase - 1 })

/-- The pass goes on from address `d` through `n` addresses, to the first that it visits (R112). -/
def State.pass (r : Nat) : Nat → Nat → State → Option Nat × State
  | 0, _, s => (none, s)
  | n + 1, d, s => if s.visits r d then (some d, s) else State.pass r n (d + 1) (s.passOver r d)

/-- Send a poll to an address, the `made`-th of its visit: it carries the acknowledgement and the command at
the front of the list, or nothing when it is a sweep trial (R113, R115, R121). -/
def State.sendPoll (s : State) (r d made : Nat) : State :=
  let p : AwaitedPoll :=
    match s.links.fetch (stationAt r d) with
    | some l => { drop := d, ack := l.accepted, command := l.commands.head?, trial := false, made := made }
    | none => { drop := d, ack := none, command := none, trial := true, made := made }
  s.updateRiser r (fun x => { x with position := d, awaited := some p, again := 0 })

/-- The next poll of a riser (R112, R113): the visit's next poll, else the pass goes on to the next address it
visits, through the end of the cycle if need be.  A cycle that would visit no address is EMPTY_CYCLE's.  DESIGN CHOICE
(assumption 36): where the rest of a cycle visits no address and the next cycle visits none either, a POLL sends no poll
and carries the pass over that rest to address 1, the phases passed over falling by one; R112 does not say which row
takes that rest. -/
def State.nextPoll (s : State) (r : Nat) : State :=
  let x := s.risers.item r
  if x.awaited.isSome then s
  else if x.again ≠ 0 then s.sendPoll r x.position (x.again + 1)
  else
    match State.pass r (25 - x.position) x.position s with
    | (some d, s') => s'.sendPoll r d 1
    | (none, s') =>
      if x.position = 1 then s
      else
        let s1 := s'.updateRiser r (fun x => { x with position := 1 })
        match State.pass r 24 1 s1 with
        | (some d, s2) => s2.sendPoll r d 1
        | (none, _) => s1

/-- POLL (R112, R113). -/
def execPoll (r : Fin 4) (s : State) : Host.Outcome State Fault Refusal :=
  .next (s.whileRunning (fun s => s.nextPoll r.val))

/-- A cycle that visits no address: every phase above 0 falls by one, and the next cycle begins (R112).  DESIGN CHOICE
(assumption 36): it is a whole cycle from address 1, so while the pass stands at another address EMPTY_CYCLE changes
nothing, and the unvisited rest of that cycle is POLL's. -/
def State.idleCycle (s : State) (r : Nat) : State :=
  let x := s.risers.item r
  if x.awaited.isSome || x.again ≠ 0 || x.position ≠ 1 then s
  else
    match State.pass r 24 1 s with
    | (some _, _) => s
    | (none, s') => s'

/-- EMPTY_CYCLE (R112). -/
def execEmptyCycle (r : Fin 4) (s : State) : Host.Outcome State Fault Refusal :=
  .next (s.whileRunning (fun s => s.idleCycle r.val))

/-! ### The outcome of a poll -/

/-- A visit ends: the pass moves on to the address after it (R113). -/
def State.endVisit (s : State) (r d : Nat) : State :=
  s.updateRiser r (fun x => { x with position := nextDrop d, awaited := none, again := 0 })

/-- After a good reply to poll `p`: the visit goes on when the event is not IDLE and the burst is not used
up, else it ends (R113). -/
def State.afterGood (s : State) (r : Nat) (p : AwaitedPoll) (isIdle : Bool) : State :=
  if !isIdle && p.made < (s.risers.item r).burst then
    s.updateRiser r (fun x => { x with position := p.drop, awaited := none, again := p.made })
  else s.endVisit r p.drop

/-- A link record after a miss, not counting the silent mark (R117, R118). -/
def Link.missed (l : Link) : Link :=
  if l.silent then { l with phase := 15 }
  else if l.misses + 1 < 3 then { l with misses := l.misses + 1 }
  else { l with misses := 3, silent := true, phase := 15 }

/-- The empty set of colours: a class other than TONER has none. -/
def noColours : ColourSet := ⟨false, false, false, false⟩

/-- A miss on a poll to a station with a link record (R117, R118). -/
def State.regularMiss (s : State) (r : Nat) (p : AwaitedPoll) : State :=
  let st := stationAt r p.drop
  let s' := (s.endVisit r p.drop).updateLink st Link.missed
  match s.links.fetch st with
  | some l => if !l.silent && 2 ≤ l.misses then s'.setFault st .silent noColours else s'
  | none => s'

/-! ### Events -/

/-- The events of a good reply, with their fields as carried (R122). -/
inductive LinkEvent where
  | idle
  | hello (model caps sizes : Nat)
  | badge (number : Nat)
  | jobStart (token : Nat)
  | jobProgress (token : Nat) (n : Counts)
  | jobEnd (token : Nat) (n : Counts)
  | jobAbort (token : Nat) (n : Counts) (reason : Nat)
  | levels (k c m y : Nat)
  | faultSet (cls colours : Nat)
  | faultClear (cls colours : Nat)
  | pause
  | resume
  | unknown
  deriving DecidableEq, Repr

/-- A set of size classes from its byte (R190). -/
def sizeSetOf (b : Nat) : SizeSet := ⟨b.testBit 0, b.testBit 1, b.testBit 2⟩

/-- A set of colours from its byte (R190). -/
def colourSetOf (b : Nat) : ColourSet := ⟨b.testBit 0, b.testBit 1, b.testBit 2, b.testBit 3⟩

/-- Whether a HELLO's fields lie in their ranges (R110, R116, R122).  DEDUCED (assumption 17): a capabilities byte with
any of its bits 7 to 2 set, which stand for no capability, lies outside its range. -/
def helloValid (caps sizes : Nat) : Bool := caps < 4 && 1 ≤ sizes && sizes < 8

/-- An abort reason from its code; one the part does not know is passed as OTHER (R123). -/
def abortReasonOf (b : Nat) : AbortReason :=
  match b with
  | 1 => .jam
  | 2 => .door
  | 3 => .paper
  | 4 => .toner
  | 5 => .service
  | 6 => .panel
  | 7 => .withdrawn
  | _ => .other

/-- A reported level: 0..100 known, any other value unknown (R122, R123). -/
def levelOf (b : Nat) : Option Nat := if b ≤ 100 then some b else none

/-- The class of an adapter's fault event; SILENT and a class the part does not know are discarded (R123). -/
def adapterClass (b : Nat) : Option FaultClass :=
  match b with
  | 1 => some .jam
  | 2 => some .door
  | 3 => some .paper
  | 4 => some .toner
  | 5 => some .service
  | _ => none

/-- The fault event passed on for a station (R123): its class and colour set, or none when it is discarded. -/
def faultEvent (x : Station) (cls colours : Nat) : Option (FaultClass × ColourSet) :=
  match adapterClass cls with
  | some .toner =>
    let cs := if x.colour then colourSetOf colours else (colourSetOf colours).minus ⟨false, true, true, true⟩
    if 16 ≤ colours || cs.isEmpty then none else some (.toner, cs)
  | some c => some (c, noColours)
  | none => none

/-- The levels passed on for a station: K alone for a station without colour (R123). -/
def passedLevels (x : Station) (k c m y : Nat) : List (Toner × Option Nat) :=
  if x.colour then [(.k, levelOf k), (.c, levelOf c), (.m, levelOf m), (.y, levelOf y)]
  else [(.k, levelOf k)]

/-- LEVELS at the planner: each colour passed is taken, and the station is evaluated (R131). -/
def State.takeLevels (s : State) (st : Nat) (ls : List (Toner × Option Nat)) : State :=
  (ls.foldl (State.takeLevel st) s).evaluateStation st

/-- PAUSE sets the paused flag (R80). -/
def State.pauseStation (s : State) (st : Nat) : State := s.updateStation st (fun x => { x with paused := true })

/-- RESUME clears the paused flag; the send check runs when it was set (R80, R94). -/
def State.resumeStation (s : State) (st : Nat) : State :=
  match s.stations.fetch st with
  | some x => if x.paused then (s.updateStation st (fun x => { x with paused := false })).sendCheck st else s
  | none => s

/-- A HELLO from an existing record's address refreshes its model code and capabilities (R79, R116). -/
def State.refreshStation (s : State) (st model caps sizes : Nat) : State :=
  match s.stations.fetch st with
  | some x =>
    let x' := { x with
      model := model
      colour := caps.testBit 0
      duplex := caps.testBit 1
      sizes := sizeSetOf sizes }
    ({ s with stations := s.stations.put st x' }).capabilitiesChanged st x x'
  | none => s

/-- The routing of a new event to its owning block (R123); an unknown event, or one whose fields lie outside
their ranges, is discarded (R114). -/
def State.route (s : State) (st : Nat) (ev : LinkEvent) : State :=
  match s.stations.fetch st with
  | none => s
  | some x =>
    match ev with
    | .idle | .unknown => s
    | .hello model caps sizes => if helloValid caps sizes then s.refreshStation st model caps sizes else s
    | .badge b => s.presentBadge st b
    | .jobStart tok => s.reportStart st tok
    | .jobProgress tok n => s.reportProgress st tok n
    | .jobEnd tok n => s.reportEnd st tok n none
    | .jobAbort tok n reason => s.reportEnd st tok n (some (abortReasonOf reason))
    | .levels k c m y => s.takeLevels st (passedLevels x k c m y)
    | .faultSet cls cs =>
      match faultEvent x cls cs with
      | some (c, colours) => s.setFault st c colours
      | none => s
    | .faultClear cls cs =>
      match faultEvent x cls cs with
      | some (c, colours) => s.clearFault st c colours
      | none => s
    | .pause => s.pauseStation st
    | .resume => s.resumeStation st

/-- Whether a reply's event is passed on (R114 step 3, R116): IDLE is not sequenced, a HELLO is accepted
whatever its bit, and any other event is new when its bit differs from the accepted bit or that is NONE. -/
def LinkEvent.isNew (ev : LinkEvent) (accepted : Option Bool) (seq : Bool) : Bool :=
  match ev with
  | .idle => false
  | .hello .. => true
  | _ => accepted ≠ some seq

/-- Step 1 of R114: link health, and the return from silence (R118). -/
def State.linkHealth (s : State) (st : Nat) (l : Link) : State :=
  let s' := s.updateLink st (fun l => { l with misses := 0, silent := false, phase := if l.silent then 0 else l.phase })
  if l.silent then s'.clearFault st .silent noColours else s'

/-- Step 2 of R114: the command the poll carried has been taken. -/
def State.commandTaken (s : State) (st : Nat) (p : AwaitedPoll) (taken : Bool) : State :=
  match p.command with
  | some c => if taken then s.updateLink st (fun l => l.taken c) else s
  | none => s

/-- Step 3 of R114: the sequence, and the routing of a new event. -/
def State.takeEvent (s : State) (st : Nat) (l : Link) (seq : Bool) (ev : LinkEvent) : State :=
  if ev.isNew l.accepted seq then (s.updateLink st (fun l => { l with accepted := some seq })).route st ev
  else s

/-- A good reply to a poll of a station with a link record (R113, R114). -/
def State.goodReply (s : State) (r : Nat) (p : AwaitedPoll) (h : ReplyHeader) (ev : LinkEvent) : State :=
  let st := stationAt r p.drop
  let s' := s.afterGood r p (ev = .idle)
  match s.links.fetch st with
  | some l => ((s'.linkHealth st l).commandTaken st p h.taken).takeEvent st l h.seq ev
  | none => s'

/-! ### Sweep trials -/

/-- The sweep list and counts after a trial; a list that becomes empty ends the sweep (R125). -/
def State.countTrial (s : State) (r d : Nat) (found : Bool) : State :=
  match (s.risers.item r).sweep with
  | none => s
  | some w =>
    let w' : Sweep := ⟨w.addresses.erase d, w.tried + 1, if found then w.found + 1 else w.found⟩
    if w'.addresses.isEmpty then
      (s.updateRiser r (fun x => { x with sweep := none })).notify (.sweepDone r w'.tried w'.found false)
    else s.updateRiser r (fun x => { x with sweep := some w' })

/-- The outcome of a sweep trial (R125). -/
def State.trialOutcome (s : State) (r : Nat) (p : AwaitedPoll) (reply : TrialReply) : State :=
  let s' := s.endVisit r p.drop
  match reply with
  | .hello seq model caps sizes =>
    if helloValid caps.toNat sizes.toNat then
      (s'.createStation (stationAt r p.drop) model.toNat (caps.toNat.testBit 0) (caps.toNat.testBit 1)
        (sizeSetOf sizes.toNat) seq).countTrial r p.drop true
    else s'.countTrial r p.drop false
  | .miss | .other => s'.countTrial r p.drop false

/-- What a sweep trial sees of a good reply (R125). -/
def trialReplyOf (seq : Bool) (ev : LinkEvent) : TrialReply :=
  match ev with
  | .hello model caps sizes => .hello seq (BitVec.ofNat 16 model) (BitVec.ofNat 8 caps) (BitVec.ofNat 8 sizes)
  | _ => .other

/-! ### The commands -/

/-- The end of a reply window on a riser: the reply of a discarded poll counts for nothing (R126 step 4), and
any other poll ends in `outcome`.  DEDUCED (assumption 32): a miss on a poll that was awaited at a LINK RESET leaves
the count at 0, as step 4 of R126 says, and the 1 of R127's row is the count after a miss on a later poll. -/
def State.pollEnds (s : State) (r : Nat) (outcome : AwaitedPoll → State) : State :=
  match (s.risers.item r).awaited with
  | none => s
  | some p => if p.discarded then s.endVisit r p.drop else outcome p

/-- The window ends without a good reply (R110, R117, R125). -/
def State.missEnds (s : State) (r : Nat) : State :=
  s.pollEnds r (fun p => if p.trial then s.trialOutcome r p .miss else s.regularMiss r p)

/-- A reply arrives: it is good when it names the address that was polled, and a miss otherwise (R110). -/
def State.replyArrives (s : State) (h : ReplyHeader) (ev : LinkEvent) : State :=
  let r := h.riser.val
  s.pollEnds r (fun p =>
    if h.drop ≠ p.drop then s.missEnds r
    else if p.trial then s.trialOutcome r p (trialReplyOf h.seq ev)
    else s.goodReply r p h ev)

/-- A reply command of the table. -/
def onReply (h : ReplyHeader) (ev : LinkEvent) (s : State) : Host.Outcome State Fault Refusal :=
  .next (s.whileRunning (fun s => s.replyArrives h ev))

/-- A whole sweep trial (R125): its poll is sent if no poll is awaited, and its outcome is dealt with.  Where
the pass's next poll is not a sweep trial, nothing comes of it. -/
def State.trial (s : State) (r : Nat) (reply : TrialReply) : State :=
  let s' := if (s.risers.item r).awaited.isSome then s else s.nextPoll r
  match (s'.risers.item r).awaited with
  | some p =>
    if p.trial then s'.pollEnds r (fun p => s'.trialOutcome r p reply) else s
  | none => s

/-- SWEEP_TRIAL (R125). -/
def execSweepTrial (r : Fin 4) (reply : TrialReply) (s : State) : Host.Outcome State Fault Refusal :=
  .next (s.whileRunning (fun s => s.trial r.val reply))

/-- MISS (R110, R117, R118). -/
def execMiss (r : Fin 4) (s : State) : Host.Outcome State Fault Refusal :=
  .next (s.whileRunning (fun s => s.missEnds r.val))

/-- IDLE (R113, R114). -/
def execIdle (h : ReplyHeader) (s : State) : Host.Outcome State Fault Refusal := onReply h .idle s

/-- HELLO (R74, R79, R116, R125). -/
def execHello (h : ReplyHeader) (model : BitVec 16) (caps sizes : Byte) (s : State) :
    Host.Outcome State Fault Refusal :=
  onReply h (.hello model.toNat caps.toNat sizes.toNat) s

/-- BADGE (R86 to R91, R123). -/
def execBadge (h : ReplyHeader) (number : BitVec 32) (s : State) : Host.Outcome State Fault Refusal :=
  onReply h (.badge number.toNat) s

/-- JOB_START (R97). -/
def execJobStart (h : ReplyHeader) (token : BitVec 16) (s : State) : Host.Outcome State Fault Refusal :=
  onReply h (.jobStart token.toNat) s

/-- JOB_PROGRESS (R98). -/
def execJobProgress (h : ReplyHeader) (token : BitVec 16) (im ic hs : BitVec 24) (s : State) :
    Host.Outcome State Fault Refusal :=
  onReply h (.jobProgress token.toNat ⟨im.toNat, ic.toNat, hs.toNat⟩) s

/-- JOB_END (R99). -/
def execJobEnd (h : ReplyHeader) (token : BitVec 16) (im ic hs : BitVec 24) (s : State) :
    Host.Outcome State Fault Refusal :=
  onReply h (.jobEnd token.toNat ⟨im.toNat, ic.toNat, hs.toNat⟩) s

/-- JOB_ABORT (R99). -/
def execJobAbort (h : ReplyHeader) (token : BitVec 16) (im ic hs : BitVec 24) (reason : Byte) (s : State) :
    Host.Outcome State Fault Refusal :=
  onReply h (.jobAbort token.toNat ⟨im.toNat, ic.toNat, hs.toNat⟩ reason.toNat) s

/-- LEVELS (R131). -/
def execLevels (h : ReplyHeader) (k c m y : Byte) (s : State) : Host.Outcome State Fault Refusal :=
  onReply h (.levels k.toNat c.toNat m.toNat y.toNat) s

/-- FAULT_SET (R149, R150). -/
def execFaultSet (h : ReplyHeader) (cls colours : Byte) (s : State) : Host.Outcome State Fault Refusal :=
  onReply h (.faultSet cls.toNat colours.toNat) s

/-- FAULT_CLEAR (R152). -/
def execFaultClear (h : ReplyHeader) (cls colours : Byte) (s : State) : Host.Outcome State Fault Refusal :=
  onReply h (.faultClear cls.toNat colours.toNat) s

/-- PAUSE (R80). -/
def execPause (h : ReplyHeader) (s : State) : Host.Outcome State Fault Refusal := onReply h .pause s

/-- RESUME (R80). -/
def execResume (h : ReplyHeader) (s : State) : Host.Outcome State Fault Refusal := onReply h .resume s

/-- EVENT_DISCARDED (R110, R114). -/
def execEventDiscarded (h : ReplyHeader) (s : State) : Host.Outcome State Fault Refusal := onReply h .unknown s

end Sys2Proof.Machine
end

