-- ==== Sys2Proof/Machine/Operands.lean ====
section
/-! DEFINITION. The operands of host requests: the kinds and their codes, the fields of a body (R190, 10.7.3),
the authority of a role (R7 to R9), and the carrying out of the oldest queued request (R182, R183). -/

namespace Sys2Proof.Machine

/-! ### Kinds -/

/-- The request kinds (10.7.3). -/
inductive Kind where
  | putTenant | getTenant | removeTenant | enrolUser | amendUser | suspendUser | reinstateUser
  | removeUser | getUser | findBadge | adjustAccount | setRates | holdJob | commitSpool | cancelJob
  | spoolFault | getJob | listJobs | setPartitions | probeRelease | setReleaseTiming | admitStation
  | parkStation | unparkStation | setStation | retireStation | getStation | sweepRiser | linkReset
  | getConsumable | listReorders | approveReorder | placeReorder | cancelReorder | ackCallout
  | closeCallout | setCalloutPolicy | listCallouts | readClock | setClock | setInterval | readInterval
  | partInfo | fetchNotice | setNoticeMask | restart
  deriving DecidableEq, Repr

/-- The kind of a code (10.7.3). -/
def kindOfCode (b : Byte) : Option Kind :=
  match b.toNat with
  | 0x10 => some .putTenant
  | 0x11 => some .getTenant
  | 0x12 => some .removeTenant
  | 0x13 => some .enrolUser
  | 0x14 => some .amendUser
  | 0x15 => some .suspendUser
  | 0x16 => some .reinstateUser
  | 0x17 => some .removeUser
  | 0x18 => some .getUser
  | 0x19 => some .findBadge
  | 0x20 => some .adjustAccount
  | 0x21 => some .setRates
  | 0x30 => some .holdJob
  | 0x31 => some .commitSpool
  | 0x32 => some .cancelJob
  | 0x33 => some .spoolFault
  | 0x34 => some .getJob
  | 0x35 => some .listJobs
  | 0x36 => some .setPartitions
  | 0x40 => some .probeRelease
  | 0x41 => some .setReleaseTiming
  | 0x50 => some .admitStation
  | 0x51 => some .parkStation
  | 0x52 => some .unparkStation
  | 0x53 => some .setStation
  | 0x54 => some .retireStation
  | 0x55 => some .getStation
  | 0x60 => some .sweepRiser
  | 0x61 => some .linkReset
  | 0x70 => some .getConsumable
  | 0x71 => some .listReorders
  | 0x72 => some .approveReorder
  | 0x73 => some .placeReorder
  | 0x74 => some .cancelReorder
  | 0x80 => some .ackCallout
  | 0x81 => some .closeCallout
  | 0x82 => some .setCalloutPolicy
  | 0x83 => some .listCallouts
  | 0x90 => some .readClock
  | 0x91 => some .setClock
  | 0x92 => some .setInterval
  | 0x93 => some .readInterval
  | 0xA0 => some .partInfo
  | 0xA1 => some .fetchNotice
  | 0xA2 => some .setNoticeMask
  | 0xA3 => some .restart
  | _ => none

/-- The body length of each kind (10.7.3). -/
def Kind.bodyLength : Kind → Nat
  | .putTenant => 24
  | .getTenant => 1
  | .removeTenant => 1
  | .enrolUser => 15
  | .amendUser => 17
  | .suspendUser => 2
  | .reinstateUser => 2
  | .removeUser => 2
  | .getUser => 2
  | .findBadge => 4
  | .adjustAccount => 7
  | .setRates => 9
  | .holdJob => 13
  | .commitSpool => 3
  | .cancelJob => 3
  | .spoolFault => 3
  | .getJob => 3
  | .listJobs => 3
  | .setPartitions => 1
  | .probeRelease => 6
  | .setReleaseTiming => 2
  | .admitStation => 9
  | .parkStation => 1
  | .unparkStation => 1
  | .setStation => 19
  | .retireStation => 1
  | .getStation => 1
  | .sweepRiser => 1
  | .linkReset => 2
  | .getConsumable => 2
  | .listReorders => 1
  | .approveReorder => 2
  | .placeReorder => 4
  | .cancelReorder => 2
  | .ackCallout => 2
  | .closeCallout => 2
  | .setCalloutPolicy => 14
  | .listCallouts => 1
  | .readClock => 0
  | .setClock => 4
  | .setInterval => 5
  | .readInterval => 0
  | .partInfo => 0
  | .fetchNotice => 0
  | .setNoticeMask => 2
  | .restart => 1

/-! ### Authority -/

/-- A role's permission for a kind (R7). -/
inductive Permission where
  | yes | own | no
  deriving DecidableEq, Repr

/-- The column of R7 for role 1, the service desk. -/
def Kind.deskPermission : Kind → Permission
  | .getTenant | .getUser | .findBadge | .getJob | .listJobs | .probeRelease | .admitStation
  | .parkStation | .unparkStation | .setStation | .retireStation | .getStation | .sweepRiser
  | .linkReset | .getConsumable | .listReorders | .approveReorder | .placeReorder | .cancelReorder
  | .ackCallout | .closeCallout | .setCalloutPolicy | .listCallouts | .readClock | .readInterval
  | .partInfo | .fetchNotice => .yes
  | .putTenant | .removeTenant | .enrolUser | .amendUser | .suspendUser | .reinstateUser | .removeUser
  | .adjustAccount | .setRates | .holdJob | .commitSpool | .cancelJob | .spoolFault | .setPartitions
  | .setReleaseTiming | .setClock | .setInterval | .setNoticeMask | .restart => .no

/-- The column of R7 for role 2, the tenant administrator. -/
def Kind.adminPermission : Kind → Permission
  | .putTenant | .getTenant | .enrolUser | .amendUser | .suspendUser | .reinstateUser | .removeUser
  | .getUser | .findBadge | .adjustAccount | .holdJob | .commitSpool | .cancelJob | .getJob | .listJobs
  | .probeRelease | .getStation | .getConsumable | .listReorders | .approveReorder | .placeReorder
  | .cancelReorder => .own
  | .removeTenant | .setRates | .spoolFault | .setPartitions | .setReleaseTiming | .admitStation
  | .parkStation | .unparkStation | .setStation | .retireStation | .sweepRiser | .linkReset
  | .ackCallout | .closeCallout | .setCalloutPolicy | .listCallouts | .readClock | .setClock
  | .setInterval | .readInterval | .partInfo | .fetchNotice | .setNoticeMask | .restart => .no

/-- The column of R7 for role 3, the spooler. -/
def Kind.spoolerPermission : Kind → Permission
  | .holdJob | .commitSpool | .cancelJob | .spoolFault | .getJob | .listJobs | .probeRelease => .own
  | .readClock | .fetchNotice => .yes
  | .putTenant | .getTenant | .removeTenant | .enrolUser | .amendUser | .suspendUser | .reinstateUser
  | .removeUser | .getUser | .findBadge | .adjustAccount | .setRates | .setPartitions
  | .setReleaseTiming | .admitStation | .parkStation | .unparkStation | .setStation | .retireStation
  | .getStation | .sweepRiser | .linkReset | .getConsumable | .listReorders | .approveReorder
  | .placeReorder | .cancelReorder | .ackCallout | .closeCallout | .setCalloutPolicy | .listCallouts
  | .setClock | .setInterval | .readInterval | .partInfo | .setNoticeMask | .restart => .no

/-- The table of R7: role 0 may issue every kind. -/
def Kind.permission (k : Kind) (role : Nat) : Permission :=
  match role with
  | 0 => .yes
  | 1 => k.deskPermission
  | 2 => k.adminPermission
  | _ => k.spoolerPermission

/-- What the binding check finds of an object a request names (R8, R9 step 3). -/
inductive Binding where
  /-- the name lies outside its range, or the object is bound to no tenant -/
  | outside
  /-- the name lies in its range and its object does not exist; a later step refuses it -/
  | missing
  /-- the object belongs to a tenant -/
  | tenant (t : Nat)
  deriving DecidableEq, Repr

/-- Whether a named object passes the binding check for a tenant (R8).  DEDUCED (assumption 35): the test of R8's table is
the whole test, for tenant 0 as for any other, so a role 2 request that carries tenant 0 passes for a shared station,
whose owner is 0; R8's sentence that the shared stations fall outside every tenant administrator's binding is read of the
administrators of tenants 1 to 31. -/
def Binding.allows (b : Binding) (t : Nat) : Bool :=
  match b with
  | .outside => false
  | .missing => true
  | .tenant u => u = t

/-- Refuse with a reason unless a condition holds. -/
def require (b : Bool) (r : Reason) : Except Reason Unit := if b then .ok () else .error r

/-- What is there, or a refusal. -/
def demand {α : Type} (o : Option α) (r : Reason) : Except Reason α :=
  match o with
  | some a => .ok a
  | none => .error r

/-- Steps 1 to 3 of R9: role permission, presence of a tenant-bound request's tenant, and the binding of the
objects it names. -/
def authorise (k : Kind) (q : Request) (bound : List Binding) (s : State) : Except Reason Unit :=
  if k.permission q.role = .no then .error .notPermitted
  else if q.role < 2 then .ok ()
  else require (s.tenants.has q.tenant && bound.all (fun b => b.allows q.tenant)) .notPermitted

/-- The binding of a tenant named (R8). -/
def State.bindTenant (s : State) (t : Nat) : Binding :=
  if Config.tenantCount ≤ t then .outside else if s.tenants.has t then .tenant t else .missing

/-- The binding of a user named (R8). -/
def State.bindUser (s : State) (n : Nat) : Binding :=
  if Config.userCount ≤ n then .outside
  else
    match s.users.fetch n with
    | some u => .tenant u.tenant
    | none => .missing

/-- The binding of the user who holds a badge (R8, R9). -/
def State.bindBadge (s : State) (b : Nat) : Binding :=
  match s.badgeHolder b with
  | some (_, u) => .tenant u.tenant
  | none => .missing

/-- The binding of a job named by its handle: its owner's tenant (R8). -/
def State.bindJob (s : State) (h : Nat) : Binding :=
  if Config.slotCount * 256 ≤ h then .outside
  else
    match s.jobNamed h with
    | some j => .tenant j.tenant
    | none => .missing

/-- The binding of a station named: its owner tenant (R8, R83).  DEDUCED (assumption 35): a shared station is bound to
tenant 0, so that a role 2 request carrying tenant 0 passes for it, where R8's last sentence may be read to refuse it. -/
def State.bindStation (s : State) (n : Nat) : Binding :=
  if Config.stationCount ≤ n then .outside
  else
    match s.stations.fetch n with
    | some x => .tenant x.owner
    | none => .missing

/-- The binding of a reorder named: the owner tenant of its station (R8).  DEDUCED (assumption 35): the reorder of a shared
station is bound to tenant 0, as the station is. -/
def State.bindReorder (s : State) (n : Nat) : Binding :=
  if n = 0 || 65535 < n then .outside
  else
    match s.reorderAt n with
    | some r =>
      match s.stations.fetch r.station with
      | some x => .tenant x.owner
      | none => .missing
    | none => .missing

/-! ### Fields of a body -/

/-- A number sent most significant byte first (R190). -/
def bytesToNat (bs : List Byte) : Nat := bs.foldl (fun n b => n * 256 + b.toNat) 0

/-- The field of `len` bytes at offset `off` of a body. -/
def Request.field (q : Request) (off len : Nat) : Nat := bytesToNat ((q.body.drop off).take len)

/-- A signed 32-bit field (R190). -/
def Request.signedField (q : Request) (off : Nat) : Int := (BitVec.ofNat 32 (q.field off 4)).toInt

/-- An optional field: carried when its bit of the mask is set (R190). -/
def carried (mask i v : Nat) : Option Nat := if mask.testBit i then some v else none

/-- Whether an optional field, if carried, satisfies a range check. -/
def optionAll (o : Option Nat) (p : Nat → Bool) : Bool :=
  match o with
  | some v => p v
  | none => true

/-- A value in a range, both ends included. -/
def inRange (lo hi v : Nat) : Bool := lo ≤ v && v ≤ hi

/-- A quota or supplies mode from its code (R190), the code having been checked. -/
def modeOf (v : Nat) : Mode := if v = 0 then .limited else .unlimited

/-- A yes/no byte, the byte having been checked. -/
def flagOf (v : Nat) : Bool := v ≠ 0

/-- A tenant set from its four bytes: its members in ascending order (R190). -/
def tenantSetOf (v : Nat) : List Nat := (List.range 32).filter (fun t => v.testBit t)

/-- A size class from its code. -/
def sizeClassOf (v : Nat) : SizeClass :=
  match v with
  | 0 => .s
  | 1 => .l
  | _ => .e

/-! ### Carrying a request out -/

/-- What a request that passes every check comes to: the state it leaves, whether its effect goes on after the
reply (ACCEPTED), and the body of its reply. -/
structure Done where
  state    : State
  accepted : Bool := false
  body     : ReplyBody := .empty

/-- A request's rule: a refusal reason, or what the request comes to. -/
abbrev Rule := Request → State → Except Reason Done

/-- Whether a queued request is one of a kind, with the body length of its kind (R181). -/
def Request.isKind (q : Request) (k : Kind) : Bool :=
  !q.oversize && kindOfCode q.kind = some k && q.body.length = k.bodyLength

/-- Carry out a request by its rule and form its reply; a refusal leaves every record as it was (R182, R183). -/
def State.carryOut (s : State) (q : Request) (rule : Rule) : State :=
  match rule q s with
  | .error r => s.reply q (.refused r)
  | .ok d => d.state.reply q (if d.accepted then .accepted d.body else .ok d.body)

/-- The oldest queued request's turn (R182): when it passes `mine` it leaves the queue and is carried out.
Where the oldest request is another, or none is queued, this step does not come about and nothing changes
(assumption 5); so too under RESET (R179, assumption 6). -/
def State.serve (s : State) (mine : Request → Bool) (rule : Rule) : State :=
  if s.resetHeld then s
  else
    match s.requests with
    | [] => s
    | q :: rest => if mine q then State.carryOut { s with requests := rest } q rule else s

/-- A request command of the table. -/
def onRequest (k : Kind) (rule : Rule) (s : State) : Host.Outcome State Fault Refusal :=
  .next (s.serve (fun q => q.isKind k) rule)

end Sys2Proof.Machine
end

