-- ==== Sys2Proof/Machine/Stations.lean ====
section
/-! DEFINITION. The requests of the Station Directory (sections 4.4 to 4.8). -/

namespace Sys2Proof.Machine

/-! ### Reading a station -/

/-- Whether a station's riser link controller has marked it silent (R111, R117). -/
def State.isSilent (s : State) (st : Nat) : Bool :=
  match s.links.fetch st with
  | some l => l.silent
  | none => false

/-- The body that GET STATION returns (R83): the record, and up to 32 of its queue's entries in order. -/
def State.stationBody (s : State) (st : Nat) (x : Station) : ReplyBody :=
  .station x x.capacity x.depth s.freePool (s.activeClasses st) (s.isSilent st)
    ((x.queue.take 32).map (fun e => (e.handle, e.sub, e.holdOver)))

/-- Steps 1 to 5 of R9 for a request that names a station at the start of its body: the station. -/
def namedStation (k : Kind) (q : Request) (s : State) : Except Reason (Nat × Station) := do
  let st := q.field 0 1
  authorise k q [s.bindStation st] s
  require (st < Config.stationCount) .outOfRange
  let x ← demand (s.stations.fetch st) .noSuch
  .ok (st, x)

/-- GET STATION (R83). -/
def getStationRule : Rule := fun q s => do
  let p ← namedStation .getStation q s
  .ok { state := s, body := s.stationBody p.1 p.2 }

/-- GET_STATION. -/
def execGetStation (s : State) : Host.Outcome State Fault Refusal := onRequest .getStation getStationRule s

/-! ### The fields of a station that a request may carry -/

/-- The fields that ADMIT STATION and SET STATION may write (R75, R78). -/
structure StationChange where
  colour     : Option Nat := none
  duplex     : Option Nat := none
  sizes      : Option Nat := none
  owner      : Option Nat := none
  admitted   : Option Nat := none
  surcharge  : Option Nat := none
  floor      : Option Nat := none
  neighbours : Option (Nat × List Nat) := none
  weight     : Option Nat := none
  midWater   : Option Nat := none

/-- Whether a carried tenant set names 1..31 alone (R67, R190). -/
def tenantSetValid (v : Nat) : Bool := !v.testBit 0

/-- Whether a carried neighbour list lies in its range: its count, and the stations named, for station `st`
(R78). -/
def neighboursValid (st : Nat) (p : Nat × List Nat) : Bool :=
  p.1 ≤ 4 && p.2.all (fun n => n < Config.stationCount && n ≠ st) && p.2.Nodup

/-- Whether every carried field lies in its range (R75 step 1, R78 step 1). -/
def StationChange.valid (c : StationChange) (st : Nat) : Bool :=
  optionAll c.sizes (inRange 1 7) && optionAll c.owner (fun t => t < Config.tenantCount) &&
  optionAll c.admitted tenantSetValid && optionAll c.surcharge (inRange 0 200) &&
  optionAll c.floor (inRange 0 127) && optionAll c.weight (inRange 1 5) &&
  optionAll c.midWater (fun m => m ≠ 0) &&
  (match c.neighbours with
   | some p => neighboursValid st p
   | none => true)

/-- Whether every tenant that a change names is present (R75 step 2, R78 step 2). -/
def StationChange.tenantsPresent (c : StationChange) (s : State) : Bool :=
  optionAll c.owner s.tenants.has && optionAll c.admitted (fun v => (tenantSetOf v).all s.tenants.has)

/-- Whether a change carries a field that only a parked station takes (R78 step 3). -/
def StationChange.needsParked (c : StationChange) : Bool :=
  c.owner.isSome || c.admitted.isSome || c.surcharge.isSome || c.weight.isSome

/-- The mid-water mark after a change that leaves a weight (R75, R78): a carried mark is clamped to the capacity
of the weight, and a weight carried alone halves its capacity. -/
def StationChange.midWaterAt (c : StationChange) (weight old : Nat) : Nat :=
  match c.midWater with
  | some m => min m (2 ^ weight)
  | none => if c.weight.isSome then 2 ^ weight / 2 else old

/-- A record with the carried fields written (R75, R78). -/
def StationChange.apply (c : StationChange) (x : Station) : Station :=
  let weight := c.weight.getD x.weight
  { x with
    colour := (c.colour.map (fun b => b.testBit 0)).getD x.colour
    duplex := (c.duplex.map (fun b => b.testBit 1)).getD x.duplex
    sizes := (c.sizes.map sizeSetOf).getD x.sizes
    owner := c.owner.getD x.owner
    admitted := (c.admitted.map tenantSetOf).getD x.admitted
    surcharge := c.surcharge.getD x.surcharge
    floor := c.floor.getD x.floor
    neighbours := (c.neighbours.map (fun p => p.2)).getD x.neighbours
    weight := weight
    midWater := c.midWaterAt weight x.midWater }

/-! ### Admission -/

/-- The fields an ADMIT STATION body carries (10.7.3). -/
def admitChange (q : Request) : StationChange :=
  let m := q.field 1 1
  { owner := carried m 0 (q.field 2 1)
    admitted := carried m 1 (q.field 3 4)
    surcharge := carried m 2 (q.field 7 1)
    weight := carried m 3 (q.field 8 1) }

/-- A station's state changes by a request, with its STATION STATE notice (R75 to R77). -/
def State.enterState (s : State) (st : Nat) (old new : StationState) : State :=
  (s.updateStation st (fun x => { x with state := new })).notify
    (.stationState st old (some new) (s.activeClasses st))

/-- A station is admitted, its record being written (R75): the derived state, the callout delays, and the
hand-over. -/
def State.admitAs (s : State) (st : Nat) (x : Station) : State :=
  let s1 := { s with stations := s.stations.put st x }
  ((s1.enterState st .probation (s1.derivedState st)).startDelays st).handOver st

/-- ADMIT STATION (R75). -/
def admitStationRule : Rule := fun q s => do
  let st := q.field 0 1
  let c := admitChange q
  authorise .admitStation q [] s
  require (st < Config.stationCount && q.field 1 1 < 2 ^ 4 && c.valid st) .outOfRange
  let x ← demand (s.stations.fetch st) .noSuch
  require (c.tenantsPresent s) .noSuch
  require (x.state = .probation) .wrongState
  let x' := c.apply x
  require (2 ^ x'.weight ≤ s.freePool) .full
  .ok { state := s.admitAs st x', body := .admitted (s.derivedState st) (2 ^ x'.weight) }

/-- ADMIT_STATION. -/
def execAdmitStation (s : State) : Host.Outcome State Fault Refusal :=
  onRequest .admitStation admitStationRule s

/-! ### Parking -/

/-- A station in use or out of service is parked (R76). -/
def State.park (s : State) (st : Nat) (x : Station) : State :=
  (s.enterState st x.state .parked).returnWaiting st (fun _ => true) .parked

/-- PARK STATION (R76). -/
def parkStationRule : Rule := fun q s => do
  let p ← namedStation .parkStation q s
  require (p.2.state ≠ .probation) .wrongState
  if p.2.state = .parked then .ok { state := s, body := .parked 0 }
  else
    require (!p.2.hasSent) .busy
    .ok { state := s.park p.1 p.2, body := .parked (p.2.waitingHandles (fun _ => true)).length }

/-- PARK_STATION. -/
def execParkStation (s : State) : Host.Outcome State Fault Refusal := onRequest .parkStation parkStationRule s

/-- A parked station returns to use (R77). -/
def State.unpark (s : State) (st : Nat) : State :=
  (s.enterState st .parked (s.derivedState st)).handOver st

/-- UNPARK STATION (R77). -/
def unparkStationRule : Rule := fun q s => do
  let p ← namedStation .unparkStation q s
  require (p.2.state ≠ .probation) .wrongState
  if p.2.state = .parked then .ok { state := s.unpark p.1, body := .unparked (s.derivedState p.1) }
  else .ok { state := s, body := .unparked p.2.state }

/-- UNPARK_STATION. -/
def execUnparkStation (s : State) : Host.Outcome State Fault Refusal :=
  onRequest .unparkStation unparkStationRule s

/-! ### Amending -/

/-- The neighbours that a SET STATION body carries: the count, and the numbers up to the count (10.7.3). -/
def neighboursOf (q : Request) : Nat × List Nat :=
  (q.field 12 1, ([q.field 13 1, q.field 14 1, q.field 15 1, q.field 16 1]).take (q.field 12 1))

/-- The fields a SET STATION body carries (10.7.3). -/
def setChange (q : Request) : StationChange :=
  let m := q.field 1 2
  { colour := carried m 0 (q.field 3 1)
    duplex := carried m 1 (q.field 3 1)
    sizes := carried m 2 (q.field 4 1)
    owner := carried m 3 (q.field 5 1)
    admitted := carried m 4 (q.field 6 4)
    surcharge := carried m 5 (q.field 10 1)
    floor := carried m 6 (q.field 11 1)
    neighbours := if m.testBit 7 then some (neighboursOf q) else none
    weight := carried m 8 (q.field 17 1)
    midWater := carried m 9 (q.field 18 1) }

/-- Whether the byte of the colour and duplex capabilities holds no other bit, when it is carried
(R190; assumption 17). -/
def StationChange.capabilitiesValid (c : StationChange) : Bool :=
  optionAll c.colour (fun b => b < 4) && optionAll c.duplex (fun b => b < 4)

/-- The changed record is written, and its capabilities act (R78, R79). -/
def State.amendStation (s : State) (st : Nat) (x x' : Station) : State :=
  ({ s with stations := s.stations.put st x' }).capabilitiesChanged st x x'

/-- The record of a station as a request's reply gives it after the write. -/
def State.stationReply (s : State) (st : Nat) : ReplyBody :=
  match s.stations.fetch st with
  | some x => s.stationBody st x
  | none => .empty

/-- SET STATION (R78, R79). -/
def setStationRule : Rule := fun q s => do
  let st := q.field 0 1
  let c := setChange q
  authorise .setStation q [] s
  require (st < Config.stationCount && q.field 1 2 < 2 ^ 10 && c.valid st && c.capabilitiesValid) .outOfRange
  let x ← demand (s.stations.fetch st) .noSuch
  require (c.tenantsPresent s) .noSuch
  require (!c.needsParked || x.state = .parked) .wrongState
  let x' := c.apply x
  require (c.weight.isNone || 2 ^ x'.weight ≤ x.capacity + s.freePool) .full
  let s' := s.amendStation st x x'
  .ok { state := s', body := s'.stationReply st }

/-- SET_STATION. -/
def execSetStation (s : State) : Host.Outcome State Fault Refusal := onRequest .setStation setStationRule s

/-! ### Retiring -/

/-- The callout records of a station, in ascending number. -/
def State.calloutsOf (s : State) (st : Nat) : Table Callout := s.callouts.keep (fun _ x => x.station = st)

/-- The CALLOUT CLOSED notice of a record (R162). -/
def closedNotice (cause : CloseCause) (p : Nat × Callout) : NoticeBody :=
  .calloutClosed p.1 p.2.station p.2.cls p.2.tier p.2.recurrence cause

/-- Step 1 of R82: the station's faults and callouts are removed. -/
def State.dropFaultsOf (s : State) (st : Nat) : State :=
  { s with
    faults := s.faults.keep (fun _ f => f.station ≠ st)
    pendingFaults := s.pendingFaults.filter (fun p => p.1 ≠ st)
    callouts := s.callouts.keep (fun _ x => x.station ≠ st) }.notifyAll
    ((s.calloutsOf st).map (closedNotice .retired))

/-- Step 2 of R82: the station's open reorders are cancelled and its consumable records removed. -/
def State.dropSuppliesOf (s : State) (st : Nat) : State :=
  (s.cancelReorders (fun r => r.station = st)).removeConsumables st allToners

/-- Step 3 of R82: the station leaves every other station's neighbour list. -/
def State.dropNeighbour (s : State) (st : Nat) : State :=
  { s with
    stations := s.stations.mapRecords
      (fun _ x => { x with neighbours := x.neighbours.filter (fun n => n ≠ st) }) }

/-- A riser's controller drops an address (R82 step 4, R127): a reply awaited from it is to be discarded, and a
visit that would go on with it ends. -/
def Riser.dropAddress (x : Riser) (d : Nat) : Riser :=
  match x.awaited with
  | some p => if p.drop = d then { x with awaited := some { p with discarded := true } } else x
  | none => if x.again ≠ 0 && x.position = d then { x with position := nextDrop d, again := 0 } else x

/-- Step 4 of R82: the place becomes empty, and its link record goes with its commands. -/
def State.emptyPlace (s : State) (st : Nat) (old : StationState) : State :=
  ({ s with
      stations := s.stations.remove st
      links := s.links.remove st }.updateRiser (st / 24) (fun x => x.dropAddress (st % 24 + 1))).notify
    (.stationState st old none [])

/-- RETIRE STATION on a station that may be retired (R82 steps 1 to 5). -/
def State.retire (s : State) (st : Nat) (x : Station) : State :=
  State.servePendingTimes (s.calloutsOf st).length
    ((((s.dropFaultsOf st).dropSuppliesOf st).dropNeighbour st).emptyPlace st x.state)

/-- RETIRE STATION (R82). -/
def retireStationRule : Rule := fun q s => do
  let p ← namedStation .retireStation q s
  require (p.2.state = .parked || p.2.state = .probation) .wrongState
  .ok { state := s.retire p.1 p.2 }

/-- RETIRE_STATION. -/
def execRetireStation (s : State) : Host.Outcome State Fault Refusal :=
  onRequest .retireStation retireStationRule s

/-! ### Sweeps and link resets (sections 6.8, 6.9) -/

/-- The drop addresses of a riser whose station place is empty, in ascending order (R124). -/
def State.emptyPlaces (s : State) (r : Nat) : List Nat :=
  (List.range' 1 24).filter (fun d => !s.stations.has (stationAt r d))

/-- SWEEP RISER (R124). -/
def sweepRiserRule : Rule := fun q s => do
  let r := q.field 0 1
  authorise .sweepRiser q [] s
  require (r < 4) .outOfRange
  require (s.risers.item r).sweep.isNone .busy
  match s.emptyPlaces r with
  | [] => .ok { state := s.notify (.sweepDone r 0 0 false), body := .sweep 0 }
  | ds =>
    .ok { state := s.updateRiser r (fun x => { x with sweep := some { addresses := ds } })
          accepted := true
          body := .sweep ds.length }

/-- SWEEP_RISER. -/
def execSweepRiser (s : State) : Host.Outcome State Fault Refusal := onRequest .sweepRiser sweepRiserRule s

/-- Step 1 of R126: a running sweep ends, aborted. -/
def State.abortSweep (s : State) (r : Nat) : State :=
  match (s.risers.item r).sweep with
  | some w =>
    (s.updateRiser r (fun x => { x with sweep := none })).notify (.sweepDone r w.tried w.found true)
  | none => s

/-- A link record after a reset: the silent mark and phase are kept (R126 step 2). -/
def Link.afterReset (l : Link) : Link := { l with accepted := none, misses := 0, commands := [], held := [] }

/-- Whether a station hangs on a riser. -/
def onRiser (r st : Nat) : Bool := st / 24 = r

/-- Step 2 of R126: every link record of a riser. -/
def State.resetLinks (s : State) (r : Nat) : State :=
  { s with links := s.links.mapRecords (fun st l => if onRiser r st then l.afterReset else l) }

/-- A controller after steps 3 and 4 of R126. -/
def Riser.afterReset (x : Riser) (burst : Nat) : Riser :=
  { x with
    burst := if burst = 0 then x.burst else burst
    awaited := x.awaited.map (fun p => { p with discarded := true }) }

/-- LINK RESET on a riser (R126). -/
def State.resetRiser (s : State) (r burst : Nat) : State :=
  ((s.abortSweep r).resetLinks r).updateRiser r (fun x => x.afterReset burst)

/-- LINK RESET (R126). -/
def linkResetRule : Rule := fun q s => do
  let r := q.field 0 1
  let burst := q.field 1 1
  authorise .linkReset q [] s
  require (r < 4 && burst ≤ 4) .outOfRange
  let s' := s.resetRiser r burst
  .ok { state := s', body := .linkReset (s'.risers.item r).burst (s'.links.count (fun st _ => onRiser r st)) }

/-- LINK_RESET. -/
def execLinkReset (s : State) : Host.Outcome State Fault Refusal := onRequest .linkReset linkResetRule s

end Sys2Proof.Machine
end

