-- ==== Sys2Proof/Machine/Callouts.lean ====
section
/-! DEFINITION. The requests of the Callout Manager, and its deadlines as commands (sections 8.4 and 8.5). -/

namespace Sys2Proof.Machine

/-- Steps 1 to 5 of R9 for a request that names a callout (R160, R162): its number and record. -/
def namedCallout (k : Kind) (q : Request) (s : State) : Except Reason (Nat × Callout) := do
  let n := q.field 0 2
  authorise k q [] s
  require (n ≠ 0) .outOfRange
  let x ← demand (s.callouts.fetch n) .noSuch
  .ok (n, x)

/-- A callout that has been acknowledged (R160). -/
def Callout.acknowledged (x : Callout) : Callout := { x with state := .acknowledged, deadline := none }

/-- ACK CALLOUT (R160). -/
def ackCalloutRule : Rule := fun q s => do
  let p ← namedCallout .ackCallout q s
  match p.2.state with
  | .resolved => .error .wrongState
  | .acknowledged => .ok { state := s, body := .acknowledged p.1 p.2.state p.2.tier }
  | .opened | .stalled =>
    .ok { state := { s with callouts := s.callouts.put p.1 p.2.acknowledged }
          body := .acknowledged p.1 .acknowledged p.2.tier }

/-- ACK_CALLOUT. -/
def execAckCallout (s : State) : Host.Outcome State Fault Refusal := onRequest .ackCallout ackCalloutRule s

/-- A RESOLVED callout leaves the table, and its place serves the pending list (R162). -/
def State.closeCallout (s : State) (n : Nat) (x : Callout) : State :=
  ({ s with callouts := s.callouts.remove n }.notify (closedNotice .request (n, x))).servePending

/-- The number of the callout that a freed place gives a pending fault, if one is pending (R162). -/
def State.servedNumber (s : State) (closed : Nat) : Option Nat :=
  if s.pendingFaults.isEmpty then none
  else some ({ s with callouts := s.callouts.remove closed }.newCalloutNumber)

/-- CLOSE CALLOUT (R162). -/
def closeCalloutRule : Rule := fun q s => do
  let p ← namedCallout .closeCallout q s
  require (p.2.state = .resolved) .wrongState
  let s' := s.closeCallout p.1 p.2
  .ok { state := s', body := .closed s'.callouts.length (s.servedNumber p.1) }

/-- CLOSE_CALLOUT. -/
def execCloseCallout (s : State) : Host.Outcome State Fault Refusal :=
  onRequest .closeCallout closeCalloutRule s

/-! ### The policy -/

/-- The values that SET CALLOUT POLICY may write (R164). -/
structure PolicyChange where
  jam     : Option Nat
  door    : Option Nat
  paper   : Option Nat
  toner   : Option Nat
  service : Option Nat
  silent  : Option Nat
  t1      : Option Nat
  t2      : Option Nat
  t3      : Option Nat

/-- The values a SET CALLOUT POLICY body carries (10.7.3). -/
def policyChangeOf (q : Request) : PolicyChange :=
  let m := q.field 0 2
  { jam := carried m 0 (q.field 2 1)
    door := carried m 1 (q.field 3 1)
    paper := carried m 2 (q.field 4 1)
    toner := carried m 3 (q.field 5 1)
    service := carried m 4 (q.field 6 1)
    silent := carried m 5 (q.field 7 1)
    t1 := carried m 6 (q.field 8 2)
    t2 := carried m 7 (q.field 10 2)
    t3 := carried m 8 (q.field 12 2) }

/-- Whether every carried value lies in its range (R163). -/
def PolicyChange.valid (c : PolicyChange) : Bool :=
  [c.jam, c.door, c.paper, c.toner, c.service, c.silent].all (fun o => optionAll o (inRange 0 240)) &&
  [c.t1, c.t2, c.t3].all (fun o => optionAll o (inRange 1 1440))

/-- A policy with the carried values written (R164). -/
def PolicyChange.apply (c : PolicyChange) (p : Policy) : Policy :=
  { jam := c.jam.getD p.jam
    door := c.door.getD p.door
    paper := c.paper.getD p.paper
    toner := c.toner.getD p.toner
    service := c.service.getD p.service
    silent := c.silent.getD p.silent
    t1 := c.t1.getD p.t1
    t2 := c.t2.getD p.t2
    t3 := c.t3.getD p.t3 }

/-- SET CALLOUT POLICY (R164). -/
def setCalloutPolicyRule : Rule := fun q s => do
  let c := policyChangeOf q
  authorise .setCalloutPolicy q [] s
  require (q.field 0 2 < 2 ^ 9 && c.valid) .outOfRange
  .ok { state := { s with policy := c.apply s.policy }, body := .policy (c.apply s.policy) }

/-- SET_CALLOUT_POLICY. -/
def execSetCalloutPolicy (s : State) : Host.Outcome State Fault Refusal :=
  onRequest .setCalloutPolicy setCalloutPolicyRule s

/-! ### Listing -/

/-- The colour set listed with a callout: that of its fault, for TONER in a state other than RESOLVED (R165). -/
def State.listedColours (s : State) (x : Callout) : Option ColourSet :=
  if x.state = .resolved then none else s.calloutColours x.station x.cls

/-- The callout records listed: all, or those of one station (R165). -/
def State.listedCallouts (s : State) (st : Nat) : List ListedCallout :=
  (s.callouts.filter (fun p => st = 255 || p.2.station = st)).map
    (fun p => ⟨p.1, p.2, s.listedColours p.2⟩)

/-- The fell-due minute of a pending fault (R148). -/
def State.fellDueOf (s : State) (p : Nat × FaultClass) : Nat :=
  match s.faultAt p.1 p.2 with
  | some f =>
    match f.link with
    | .pending m => m
    | _ => 0
  | none => 0

/-- The pending list as listed, in its order (R165). -/
def State.listedPending (s : State) : List ListedPending :=
  s.pendingFaults.map (fun p => ⟨p.1, p.2, s.fellDueOf p⟩)

/-- LIST CALLOUTS (R165). -/
def listCalloutsRule : Rule := fun q s => do
  let st := q.field 0 1
  authorise .listCallouts q [] s
  require (st < Config.stationCount || st = 255) .outOfRange
  .ok { state := s
        body := .callouts (s.listedCallouts st) s.callouts.length s.nextCallout s.listedPending
          (if st = 255 then none else some (s.activeFaults st)) }

/-- LIST_CALLOUTS. -/
def execListCallouts (s : State) : Host.Outcome State Fault Refusal :=
  onRequest .listCallouts listCalloutsRule s

/-! ### Deadlines -/

/-- FAULT_DUE_MINUTE (R151). -/
def execFaultDueMinute (station : Nat) (cls : FaultClass) (s : State) : Host.Outcome State Fault Refusal :=
  .next (s.whileRunning (fun s => s.fallsDue (.fault station cls)))

/-- TIER_DEADLINE (R158). -/
def execTierDeadline (callout : Nat) (s : State) : Host.Outcome State Fault Refusal :=
  .next (s.whileRunning (fun s => s.fallsDue (.tier callout)))

end Sys2Proof.Machine
end

