-- ==== Sys2Proof/Machine/Clock.lean ====
section
/-! DEFINITION. The clock and the interval counters: their requests, the minute timebase's marks, and the expiry
of a counter (chapter 9). -/

namespace Sys2Proof.Machine

/-! ### The building clock -/

/-- READ CLOCK (R171). -/
def readClockRule : Rule := fun q s => do
  authorise .readClock q [] s
  .ok { state := s, body := .clock s.clock }

/-- READ_CLOCK. -/
def execReadClock (s : State) : Host.Outcome State Fault Refusal := onRequest .readClock readClockRule s

/-- The clock is written, and every deadline that a forward write reaches falls due (R170). -/
def State.setClock (s : State) (v : Nat) : State :=
  if s.clock < v then { s with clock := v }.allFallDue else { s with clock := v }

/-- SET CLOCK (R170). -/
def setClockRule : Rule := fun q s => do
  let v := q.field 0 4
  authorise .setClock q [] s
  .ok { state := s.setClock v, body := .clockSet s.clock v }

/-- SET_CLOCK. -/
def execSetClock (s : State) : Host.Outcome State Fault Refusal := onRequest .setClock setClockRule s

/-! ### The interval counters -/

/-- A counter's source from its code (R190), the code having been checked. -/
def sourceOf (v : Nat) : CounterSource := if v = 0 then .minutes else .impressions

/-- SET INTERVAL (R175). -/
def setIntervalRule : Rule := fun q s => do
  let n := q.field 0 1
  let source := q.field 1 1
  let preload := q.field 2 3
  authorise .setInterval q [] s
  require (n < 4 && source ≤ 1 && preload ≤ 1000000) .outOfRange
  let c : Counter := { source := sourceOf source, preload := preload, count := preload }
  .ok { state := { s with counters := s.counters.write n c }, body := .intervalSet (s.counters.item n) c }

/-- SET_INTERVAL. -/
def execSetInterval (s : State) : Host.Outcome State Fault Refusal := onRequest .setInterval setIntervalRule s

/-- READ INTERVAL (R176). -/
def readIntervalRule : Rule := fun q s => do
  authorise .readInterval q [] s
  .ok { state := s, body := .intervals s.counters }

/-- READ_INTERVAL. -/
def execReadInterval (s : State) : Host.Outcome State Fault Refusal :=
  onRequest .readInterval readIntervalRule s

/-! ### The minute timebase -/

/-- Whether a counter takes a unit at a minute: it is running with source MINUTES (R172). -/
def Counter.countsMinutes (c : Counter) : Bool := c.source = .minutes && c.preload ≠ 0

/-- A counter after a minute (R172): it is lowered, and reloaded when it reaches 0. -/
def Counter.minute (c : Counter) : Counter :=
  if c.countsMinutes then { c with count := if c.count ≤ 1 then c.preload else c.count - 1 } else c

/-- The expiry that a minute brings a counter, if any (R172). -/
def Counter.expiryAt (n : Nat) (c : Counter) : List Expiry :=
  if c.countsMinutes && c.count ≤ 1 then [⟨n, c.source, c.preload⟩] else []

/-- The counters after a minute. -/
def minuteOf (q : Quad Counter) : Quad Counter := ⟨q.q0.minute, q.q1.minute, q.q2.minute, q.q3.minute⟩

/-- The expiries that a minute brings. -/
def expiriesOf (q : Quad Counter) : List Expiry :=
  q.q0.expiryAt 0 ++ q.q1.expiryAt 1 ++ q.q2.expiryAt 2 ++ q.q3.expiryAt 3

/-- The timebase marks a minute (R168, R172): the clock rises by one unless it stands at its greatest value, and
every running MINUTES counter takes one unit.  An expiry waits for its own step (assumption 7). -/
def State.markMinute (s : State) : State :=
  { s with
    clock := min (s.clock + 1) Config.maxMinute
    counters := minuteOf s.counters
    expiries := s.expiries ++ expiriesOf s.counters }

/-- CLOCK_ADVANCE (R168, R172). -/
def execClockAdvance (s : State) : Host.Outcome State Fault Refusal := .next (s.whileRunning State.markMinute)

/-- The oldest expiry of a counter that its owner has not been handed is carried out (R174; assumption 7). -/
def State.takeExpiry (s : State) (n : Nat) : State :=
  match s.expiries.find? (fun e => e.counter = n) with
  | some e => { s with expiries := s.expiries.erase e }.expire e
  | none => s

/-- INTERVAL_EXPIRED (R174). -/
def execIntervalExpired (counter : Fin 4) (s : State) : Host.Outcome State Fault Refusal :=
  .next (s.whileRunning (fun s => s.takeExpiry counter.val))

end Sys2Proof.Machine
end

