-- ==== Sys2Proof/Machine/HostPort.lean ====
section
/-! DEFINITION. The host port: frames on RXD, the answers to frames that name no request, the notice queue's
requests, and PART INFO (chapter 10). -/

namespace Sys2Proof.Machine

/-! ### Receiving (R180 to R182) -/

/-- The two bytes of a length or a check. -/
def wordOf (hi lo : Byte) : Nat := hi.toNat * 256 + lo.toNat

/-- The sum, modulo 65,536, of bytes (R180). -/
def checkSum (bs : List Byte) : Nat := (bs.map BitVec.toNat).sum % 65536

/-- The request of a frame, from its kind, tag, role and tenant byte and body (10.7.2). -/
def requestOf (kind tag roleTenant : Byte) (body : List Byte) (oversize : Bool) : Request :=
  { kind := kind
    tag := tag
    role := roleTenant.toNat / 64
    tenant := roleTenant.toNat % 32
    body := body
    oversize := oversize }

/-- Whether a frame passes its check (R180): `head` is its length, kind, tag and role and tenant bytes, `rest`
what follows them, of which `len` bytes are the body and two the check. -/
def passesCheck (head rest : List Byte) (len : Nat) : Bool :=
  bytesToNat ((rest.drop len).take 2) = checkSum (head ++ rest.take len)

/-- The hunt for frames in the bytes received (R180, R181): the frames accepted, in order, and the bytes of a
frame that is not complete.  The first argument bounds the bytes looked at. -/
def hunt : Nat → List Byte → List Request × List Byte
  | 0, bs => ([], bs)
  | _ + 1, [] => ([], [])
  | n + 1, b :: bs =>
    if b ≠ Config.syncByte then hunt n bs
    else
      match bs with
      | l1 :: l2 :: kind :: tag :: rt :: rest =>
        let len := wordOf l1 l2
        if Config.maxBodyLength < len then
          let r := hunt n rest
          (requestOf kind tag rt [] true :: r.1, r.2)
        else if rest.length < len + 2 then ([], b :: bs)
        else
          let r := hunt n (rest.drop (len + 2))
          if passesCheck [l1, l2, kind, tag, rt] rest len then
            (requestOf kind tag rt (rest.take len) false :: r.1, r.2)
          else r
      | _ => ([], b :: bs)

/-- A frame enters the request queue, or waits for its REQUEST_QUEUE_FULL answer (R182). -/
def State.acceptFrame (s : State) (q : Request) : State :=
  if s.requests.length < Config.requestCapacity then { s with requests := s.requests ++ [q] }
  else { s with overflow := s.overflow ++ [(q.kind, q.tag)] }

/-- Bytes arrive on RXD. -/
def State.receive (s : State) (bytes : List Byte) : State :=
  let r := hunt (s.rx ++ bytes).length (s.rx ++ bytes)
  r.1.foldl State.acceptFrame { s with rx := r.2 }

/-- REQUEST_FRAME (R180, R181); no byte is taken while RESET is held (R179). -/
def execRequestFrame (bytes : List Byte) (s : State) : Host.Outcome State Fault Refusal :=
  .next (s.whileRunning (fun s => s.receive bytes))

/-! ### Sending (R182) -/

/-- TXD finishes the reply it is sending, if any, and begins the answer owed to the oldest frame that found the queue
full, ahead of every reply that still waits (R182); nothing comes of it where no answer is owed. -/
def State.answerOverflow (s : State) : State :=
  match s.overflow with
  | [] => s
  | f :: rest => { s with txd := some (queueFullReply f), overflow := rest }

/-- TXD finishes the reply it is sending, if any, and begins the next (R182): an owed answer, else the oldest reply
formed, else none. -/
def State.sendNext (s : State) : State :=
  match s.overflow, s.replies with
  | _ :: _, _ => s.answerOverflow
  | [], r :: rest => { s with txd := some r, replies := rest }
  | [], [] => { s with txd := none }

/-- What comes about while no command waits: TXD goes on to the next reply (assumption 11), but not under RESET. -/
def State.idles (s : State) : State := s.whileRunning State.sendNext

/-- REQUEST_QUEUE_FULL (R182). -/
def execRequestQueueFull (s : State) : Host.Outcome State Fault Refusal :=
  .next (s.whileRunning State.answerOverflow)

/-! ### Frames that name no request (R181) -/

/-- Whether a queued frame has a kind code that 10.7.3 does not list (R181). -/
def Request.isUnknown (q : Request) : Bool := !q.oversize && (kindOfCode q.kind).isNone

/-- UNKNOWN_REQUEST (R181). -/
def execUnknownRequest (s : State) : Host.Outcome State Fault Refusal :=
  .next (s.serve Request.isUnknown (fun _ _ => .error .unknownRequest))

/-- Whether a queued frame's length is above 1,020, or not that of its kind (R181). -/
def Request.isBadLength (q : Request) : Bool :=
  q.oversize ||
    match kindOfCode q.kind with
    | some k => q.body.length ≠ k.bodyLength
    | none => false

/-- BAD_LENGTH (R181). -/
def execBadLength (s : State) : Host.Outcome State Fault Refusal :=
  .next (s.serve Request.isBadLength (fun _ _ => .error .badLength))

/-! ### The notice queue (R185, R186) -/

/-- FETCH NOTICE (R186). -/
def fetchNoticeRule : Rule := fun q s => do
  authorise .fetchNotice q [] s
  .ok { state := { s with notices := s.notices.tail, lost := false }
        body := .fetched s.notices.head? (!s.notices.tail.isEmpty) s.lost }

/-- FETCH_NOTICE. -/
def execFetchNotice (s : State) : Host.Outcome State Fault Refusal := onRequest .fetchNotice fetchNoticeRule s

/-- A mask from a byte of classes (10.7.5). -/
def maskOf (v : Nat) : Mask :=
  ⟨v.testBit 0, v.testBit 1, v.testBit 2, v.testBit 3, v.testBit 4, v.testBit 5⟩

/-- A mask after the classes of `set` become enabled and then those of `clear` disabled (R185). -/
def Mask.write (m set clear : Mask) : Mask :=
  { job := (m.job || set.job) && !clear.job
    quota := (m.quota || set.quota) && !clear.quota
    station := (m.station || set.station) && !clear.station
    supply := (m.supply || set.supply) && !clear.supply
    callout := (m.callout || set.callout) && !clear.callout
    clock := (m.clock || set.clock) && !clear.clock }

/-- SET NOTICE MASK (R185). -/
def setNoticeMaskRule : Rule := fun q s => do
  authorise .setNoticeMask q [] s
  require (q.field 0 1 < 64 && q.field 1 1 < 64) .outOfRange
  let m := s.mask.write (maskOf (q.field 0 1)) (maskOf (q.field 1 1))
  .ok { state := { s with mask := m }, body := .masks s.mask m }

/-- SET_NOTICE_MASK. -/
def execSetNoticeMask (s : State) : Host.Outcome State Fault Refusal :=
  onRequest .setNoticeMask setNoticeMaskRule s

/-! ### Part information (R187) -/

/-- The capacities that PART INFO gives, in their order (R187). -/
def capacities : List Nat :=
  [Config.tenantCount, Config.userCount, Config.slotCount, Config.stationCount, Config.poolSize,
    Config.stationCount * 4, Config.reorderCapacity, Config.calloutCapacity, Config.noticeCapacity,
    Config.requestCapacity, Config.commandCapacity]

/-- PART INFO (R187). -/
def partInfoRule : Rule := fun q s => do
  authorise .partInfo q [] s
  .ok { state := s, body := .partInfo Config.partCode Config.revision capacities }

/-- PART_INFO. -/
def execPartInfo (s : State) : Host.Outcome State Fault Refusal := onRequest .partInfo partInfoRule s

end Sys2Proof.Machine
end

