-- ==== Sys2Proof/Machine/Power.lean ====
section
/-! DEFINITION. Power-on, RESET and the two restarts (R179, R188, and the restart table of each chapter). -/

namespace Sys2Proof.Machine

/-! ### Power and RESET (R179) -/

/-- Every record takes its power-on value and the straps are read (R179).  The model's own fields (its queue of
commands and its count of free choices) go on, and so does the level of the RESET pin.  R179 names the request queue,
the notice queue, the mask and the lost flag; that a frame partly received, replies formed and not sent, and answers
owed to frames that found the queue full are dropped too is a DESIGN CHOICE (assumption 29). -/
def State.powerUp (s : State) (straps : BitVec 3) (resetHeld : Bool) : State :=
  { State.reset with resetHeld := resetHeld, rate := straps, choices := s.choices, pending := s.pending }

/-- The rate of the host line in baud, by the code of its straps (section 10.1). -/
def State.baud (s : State) : Nat :=
  match s.rate.toNat with
  | 0 => 115200
  | 1 => 230400
  | 2 => 460800
  | 3 => 921600
  | 4 => 1000000
  | 5 => 1500000
  | 6 => 2000000
  | _ => 3000000

/-- POWER_ON (R179). -/
def execPowerOn (straps : BitVec 3) (s : State) : Host.Outcome State Fault Refusal :=
  .next (s.powerUp straps s.resetHeld)

/-- RESET_ASSERTED (R179): no byte is taken, TXD is held idle, and ATTN and every RnDIR are held low
(`State.txdIdle`, `State.attn`, `State.rnDir`). -/
def execResetAsserted (s : State) : Host.Outcome State Fault Refusal := .next { s with resetHeld := true }

/-- RESET_RELEASED (R179). -/
def execResetReleased (straps : BitVec 3) (s : State) : Host.Outcome State Fault Refusal :=
  .next (s.powerUp straps false)

/-! ### RESTART JOBS (R20, R44, R65, R85, R109, R128) -/

/-- An account with no reservation (R44). -/
def Account.unreserved (a : Account) : Account := { a with reserved := 0 }

/-- A tenant after RESTART JOBS (R20). -/
def Tenant.afterJobs (t : Tenant) : Tenant := { t with account := t.account.unreserved }

/-- A user after RESTART JOBS (R20). -/
def User.afterJobs (u : User) : User := { u with account := u.account.unreserved, jobCount := 0, owned := [] }

/-- A controller after RESTART JOBS (R128): an awaited poll's command has been discarded. -/
def Riser.afterJobs (x : Riser) : Riser := { x with awaited := x.awaited.map (fun p => { p with command := none }) }

/-- A link record after RESTART JOBS (R128). -/
def Link.afterJobs (l : Link) : Link := { l with commands := [], held := [] }

/-- The generation of each occupied slot advances (R65). -/
def State.advanceGenerations (s : State) : State :=
  s.jobs.numbers.foldl (fun s slot => s.setGeneration slot ((s.generation slot + 1) % 256)) s

/-- RESTART JOBS on every block (R188). -/
def State.restartJobs (s : State) : State :=
  { s.advanceGenerations with
    jobs := []
    users := s.users.mapRecords (fun _ u => u.afterJobs)
    tenants := s.tenants.mapRecords (fun _ t => t.afterJobs)
    stations := s.stations.mapRecords (fun _ x => { x with queue := [] })
    links := s.links.mapRecords (fun _ l => l.afterJobs)
    risers := ⟨s.risers.q0.afterJobs, s.risers.q1.afterJobs, s.risers.q2.afterJobs, s.risers.q3.afterJobs⟩ }

/-- Whether a queued request is a RESTART whose kind byte is not that of the other row's restart.  A byte above 1
is either row's to refuse (assumption 22). -/
def Request.isRestart (q : Request) (other : Nat) : Bool := q.isKind .restart && q.field 0 1 ≠ other

/-- RESTART with kind JOBS (R188). -/
def restartJobsRule : Rule := fun q s => do
  authorise .restart q [] s
  require (q.field 0 1 = 0) .outOfRange
  .ok { state := s.restartJobs, body := .restarted .jobs }

/-- RESTART_JOBS. -/
def execRestartJobs (s : State) : Host.Outcome State Fault Refusal :=
  .next (s.serve (fun q => q.isRestart 1) restartJobsRule)

/-! ### RESTART ALL -/

/-- RESTART ALL on every block (R188): power-on without reading the straps.  The reply being sent, replies formed,
answers owed to frames that found the queue full, and the bytes of a frame still arriving go on (assumption 14). -/
def State.restartAll (s : State) : State :=
  { State.reset with
    rate := s.rate
    rx := s.rx
    overflow := s.overflow
    txd := s.txd
    replies := s.replies
    choices := s.choices
    pending := s.pending }

/-- RESTART with kind ALL (R188). -/
def restartAllRule : Rule := fun q s => do
  authorise .restart q [] s
  require (q.field 0 1 = 1) .outOfRange
  .ok { state := s.restartAll, body := .restarted .all }

/-- RESTART_ALL. -/
def execRestartAll (s : State) : Host.Outcome State Fault Refusal :=
  .next (s.serve (fun q => q.isRestart 0) restartAllRule)

end Sys2Proof.Machine
end

