-- ==== Sys2Proof/Machine/Store.lean ====
section
/-! DEFINITION. The requests of the Held-Job Store and of the release engine, and the deadlines of jobs and
queue entries as commands (chapters 3 and 5). -/

namespace Sys2Proof.Machine

/-! ### Holding -/

/-- The offsets that a HOLD looks at within a partition of size `z`, in order (R52). -/
def placementOffsets (user seq z : Nat) : List Nat :=
  let off0 := (user * 31 + seq) % z
  let off1 := (off0 + z / 2) % z
  [off0, off1, (off1 + 1) % z, (off1 + 2) % z, (off1 + 3) % z, (off1 + 4) % z, (off1 + 5) % z, (off1 + 6) % z]

/-- The partition size Z (R45). -/
def State.partitionSize (s : State) : Nat := Config.slotCount / s.partitions

/-- The slot a HOLD is placed in: the first free one of the eight it looks at (R52, R53). -/
def State.placement (s : State) (user : Nat) (u : User) : Option Nat :=
  ((placementOffsets user u.submitSeq s.partitionSize).map
    (fun f => (s.tenantOf u.tenant).partition * s.partitionSize + f)).find? (fun x => !s.jobs.has x)

/-- The descriptor of a HOLD JOB body (10.7.6), its codes having been checked. -/
def Request.descriptor (q : Request) (off : Nat) : Descriptor :=
  { pages := q.field off 2
    copies := q.field (off + 2) 1
    nUp := q.field (off + 3) 1
    duplex := (q.field (off + 4) 1).testBit 0
    colour := (q.field (off + 4) 1).testBit 1
    sizeClass := sizeClassOf (q.field (off + 5) 1)
    fallback := (q.field (off + 4) 1).testBit 2 }

/-- Whether the bytes of a descriptor lie in their ranges (R54, 10.7.6). -/
def Request.descriptorValid (q : Request) (off : Nat) : Bool :=
  inRange 1 9999 (q.field off 2) && inRange 1 99 (q.field (off + 2) 1) &&
  [1, 2, 4].contains (q.field (off + 3) 1) && q.field (off + 4) 1 < 8 && q.field (off + 5) 1 ≤ 2

/-- The descriptor as stored: a colour job of an owner without colour is converted to MONO (R55). -/
def Descriptor.converted (d : Descriptor) (u : User) : Descriptor :=
  if d.colour && !u.colourPermitted then { d with colour := false } else d

/-- The record of a job placed in a slot (R49, R55). -/
def State.heldJob (s : State) (slot owner : Nat) (u : User) (d : Descriptor) (spoolRef : Nat) (committed : Bool) :
    Job :=
  { handle := slot * 256 + s.generation slot
    owner := owner
    tenant := u.tenant
    descriptor := d.converted u
    spoolRef := spoolRef
    submitted := s.clock
    holdDeadline := s.minuteAfter (s.tenantOf u.tenant).holdMinutes
    state := if committed then .held else .receiving
    committed := committed }

/-- Place a job: the record, the owner list, the job count and the submit sequence, in one change (R55). -/
def State.placeJob (s : State) (slot : Nat) (j : Job) : State :=
  { s with
    jobs := s.jobs.put slot j
    users := s.users.update j.owner (fun u =>
      { u with
        owned := u.owned ++ [j.handle]
        jobCount := u.jobCount + 1
        submitSeq := (u.submitSeq + 1) % 256 }) }

/-- HOLD JOB (R54, R55). -/
def holdJobRule : Rule := fun q s => do
  let owner := q.field 0 2
  authorise .holdJob q [s.bindUser owner] s
  require (owner < Config.userCount && q.field 6 1 ≤ 1 && q.descriptorValid 7) .outOfRange
  let u ← demand (s.users.fetch owner) .noSuch
  require (u.jobCount < (s.tenantOf u.tenant).jobLimit) .limit
  let slot ← demand (s.placement owner u) .storeFull
  let d := q.descriptor 7
  let j := s.heldJob slot owner u d (q.field 2 4) (flagOf (q.field 6 1))
  .ok { state := s.placeJob slot j
        body := .jobHeld j.handle (tokenOf j.handle) j.holdDeadline (d.colour && !u.colourPermitted) }

/-- HOLD_JOB. -/
def execHoldJob (s : State) : Host.Outcome State Fault Refusal := onRequest .holdJob holdJobRule s

/-! ### Jobs named by their handle -/

/-- Steps 1 to 5 of R9 for a request that names a job by its handle (R48): the job. -/
def namedJob (k : Kind) (q : Request) (s : State) : Except Reason Job := do
  let h := q.field 0 3
  authorise k q [s.bindJob h] s
  require (h < Config.slotCount * 256) .outOfRange
  demand (s.jobNamed h) .noSuch

/-- COMMIT SPOOL on a job (R56). -/
def State.commitJob (s : State) (j : Job) : State :=
  match j.state with
  | .receiving => s.updateJob j.handle (fun j => { j with committed := true, state := .held })
  | .queued =>
    if j.committed then s
    else
      match j.charging with
      | some c =>
        ((s.updateJob j.handle (fun j => { j with committed := true })).updateEntry c.station j.handle
          (fun e => { e with commitDeadline := none })).sendCheck c.station
      | none => s
  | .held | .printing => s

/-- COMMIT SPOOL (R56). -/
def commitSpoolRule : Rule := fun q s => do
  let j ← namedJob .commitSpool q s
  .ok { state := s.commitJob j }

/-- COMMIT_SPOOL. -/
def execCommitSpool (s : State) : Host.Outcome State Fault Refusal := onRequest .commitSpool commitSpoolRule s

/-- Whether a job's queue entry is SENT; a PRINTING job's always is (R69). -/
def State.isSent (s : State) (j : Job) : Bool :=
  match j.charging with
  | some c =>
    match s.stations.fetch c.station with
    | some x => x.hasSentEntry j.handle
    | none => false
  | none => false

/-- Take a queued job's entry out, release its reservation, delete it and queue a notice; the send check
follows where it stood in a queue (R57, R59, R94). -/
def State.takeOut (s : State) (j : Job) (notice : NoticeBody) : State :=
  match j.charging with
  | some c =>
    ((((s.removeEntry c.station j.handle).releaseReservation j).deleteJob j).notify notice).sendCheck c.station
  | none => (s.deleteJob j).notify notice

/-- CANCEL JOB (R57, R58). -/
def cancelJobRule : Rule := fun q s => do
  let j ← namedJob .cancelJob q s
  if j.cancelRequested then .ok { state := s }
  else if s.isSent j then
    .ok { state := (s.updateJob j.handle (fun j => { j with cancelRequested := true })).withdraw
            ((j.charging.map (·.station)).getD 0) j
          accepted := true }
  else .ok { state := s.takeOut j (.jobDeleted j.handle j.owner j.spoolRef .cancel) }

/-- CANCEL_JOB. -/
def execCancelJob (s : State) : Host.Outcome State Fault Refusal := onRequest .cancelJob cancelJobRule s

/-- SPOOL FAULT (R59). -/
def spoolFaultRule : Rule := fun q s => do
  let j ← namedJob .spoolFault q s
  let s' := if s.isSent j && !j.cancelRequested then s.withdraw ((j.charging.map (·.station)).getD 0) j else s
  .ok { state := s'.takeOut j (.jobFailed j.handle j.owner j.spoolRef j.state) }

/-- SPOOL_FAULT. -/
def execSpoolFault (s : State) : Host.Outcome State Fault Refusal := onRequest .spoolFault spoolFaultRule s

/-- GET JOB (R62). -/
def getJobRule : Rule := fun q s => do
  let j ← namedJob .getJob q s
  .ok { state := s, body := .job j ((s.entryOfSlot (j.handle / 256)).map (fun p => p.2.2)) }

/-- GET_JOB. -/
def execGetJob (s : State) : Host.Outcome State Fault Refusal := onRequest .getJob getJobRule s

/-- A handle with its job's state, as LIST JOBS gives it (R63). -/
def State.listedJob (s : State) (h : Nat) : Option (Nat × JobState) := (s.jobNamed h).map (fun j => (h, j.state))

/-- LIST JOBS (R63). -/
def listJobsRule : Rule := fun q s => do
  let n := q.field 0 2
  let skip := q.field 2 1
  authorise .listJobs q [s.bindUser n] s
  require (n < Config.userCount && skip ≤ 31) .outOfRange
  let u ← demand (s.users.fetch n) .noSuch
  let given := ((u.owned.drop skip).take 16).filterMap s.listedJob
  .ok { state := s, body := .jobs u.jobCount given (u.jobCount - skip - given.length) }

/-- LIST_JOBS. -/
def execListJobs (s : State) : Host.Outcome State Fault Refusal := onRequest .listJobs listJobsRule s

/-- SET PARTITIONS (R46). -/
def setPartitionsRule : Rule := fun q s => do
  let p := q.field 0 1
  authorise .setPartitions q [] s
  require ([1, 2, 4, 8].contains p && !s.tenants.any (fun t => p ≤ t.2.partition)) .outOfRange
  require s.jobs.isEmpty .wrongState
  .ok { state := { s with partitions := p } }

/-- SET_PARTITIONS. -/
def execSetPartitions (s : State) : Host.Outcome State Fault Refusal :=
  onRequest .setPartitions setPartitionsRule s

/-! ### Release -/

/-- The user that PROBE RELEASE names, by number or by badge (R92). -/
def State.probedUser (s : State) (selector v : Nat) : Option (Nat × User) :=
  if selector = 0 then (s.users.fetch v).map (fun u => (v, u)) else s.badgeHolder v

/-- The binding of the user that PROBE RELEASE names (R8; assumption 9). -/
def State.bindProbed (s : State) (selector v : Nat) : Binding :=
  match selector with
  | 0 => s.bindUser v
  | 1 => s.bindBadge v
  | _ => .outside

/-- PROBE RELEASE (R31, R92): the presentation is gone through on a state that is then dropped, so the
candidates see each other's trial reservations and the trial depth, and nothing changes. -/
def probeReleaseRule : Rule := fun q s => do
  let selector := q.field 0 1
  let v := q.field 1 4
  let st := q.field 5 1
  authorise .probeRelease q [s.bindProbed selector v] s
  require (selector ≤ 1 && (if selector = 0 then v < Config.userCount else v ≠ 0) &&
    st < Config.stationCount) .outOfRange
  let found ← demand (s.probedUser selector v) .noSuch
  let x ← demand (s.stations.fetch st) .noSuch
  let r := s.present st x (some found)
  .ok { state := s, body := .probe r.2.1 r.2.2 }

/-- PROBE_RELEASE. -/
def execProbeRelease (s : State) : Host.Outcome State Fault Refusal :=
  onRequest .probeRelease probeReleaseRule s

/-- SET RELEASE TIMING (R95). -/
def setReleaseTimingRule : Rule := fun q s => do
  let start := q.field 0 1
  let abandon := q.field 1 1
  authorise .setReleaseTiming q [] s
  require (inRange 1 120 start && inRange 1 240 abandon) .outOfRange
  .ok { state := { s with startWindow := start, abandonWindow := abandon }, body := .timing start abandon }

/-- SET_RELEASE_TIMING. -/
def execSetReleaseTiming (s : State) : Host.Outcome State Fault Refusal :=
  onRequest .setReleaseTiming setReleaseTimingRule s

/-! ### Deadlines -/

/-- HOLD_DEADLINE (R60). -/
def execHoldDeadline (slot : Nat) (s : State) : Host.Outcome State Fault Refusal :=
  .next (s.whileRunning (fun s => s.fallsDue (.hold slot)))

/-- COMMIT_DEADLINE (R100). -/
def execCommitDeadline (slot : Nat) (s : State) : Host.Outcome State Fault Refusal :=
  .next (s.whileRunning (fun s => s.fallsDue (.commit slot)))

/-- START_DEADLINE (R101). -/
def execStartDeadline (slot : Nat) (s : State) : Host.Outcome State Fault Refusal :=
  .next (s.whileRunning (fun s => s.fallsDue (.start slot)))

/-- ABANDON_DEADLINE (R102). -/
def execAbandonDeadline (slot : Nat) (s : State) : Host.Outcome State Fault Refusal :=
  .next (s.whileRunning (fun s => s.fallsDue (.abandon slot)))

end Sys2Proof.Machine
end

