-- ==== Sys2Proof/Machine/Supplies.lean ====
section
/-! DEFINITION. The requests of the Supplies Planner, and the due minute of a reorder as a command
(sections 7.5 and 7.7). -/

namespace Sys2Proof.Machine

/-! ### Reading the planner -/

/-- GET CONSUMABLE (R144). -/
def getConsumableRule : Rule := fun q s => do
  let st := q.field 0 1
  let col := q.field 1 1
  authorise .getConsumable q [s.bindStation st] s
  require (st < Config.stationCount && col < 4) .outOfRange
  let x ← demand (s.stations.fetch st) .noSuch
  let r ← demand (s.consumables.fetch (consumableKey st (tonerOf col))) .noSuch
  let t := s.tenantOf x.owner
  .ok { state := s
        body := .consumable r x.owner t.leadCover t.floorPercent (r.reorder.bind s.reorderAt) }

/-- GET_CONSUMABLE. -/
def execGetConsumable (s : State) : Host.Outcome State Fault Refusal :=
  onRequest .getConsumable getConsumableRule s

/-- Whether LIST REORDERS from a role names a reorder's station, or all stations with 255 (R144, 10.7.3). -/
def listedFor (st : Nat) (r : Reorder) : Bool := st = 255 || r.station = st

/-- Whether a station's owner tenant is `t` (R8).  DEDUCED (assumption 35): tenant 0 owns the shared stations, for a role 2
request that carries it too. -/
def State.ownedBy (s : State) (t st : Nat) : Bool :=
  match s.stations.fetch st with
  | some x => x.owner = t
  | none => false

/-- LIST REORDERS (R144): from role 2, only the reorders whose station its tenant owns. -/
def listReordersRule : Rule := fun q s => do
  let st := q.field 0 1
  authorise .listReorders q (if st = 255 then [] else [s.bindStation st]) s
  require (st < Config.stationCount || st = 255) .outOfRange
  let rs := s.reorders.filter (fun r => listedFor st r && (q.role < 2 || s.ownedBy q.tenant r.station))
  .ok { state := s, body := .reorders rs s.reorders.length s.nextReorder }

/-- LIST_REORDERS. -/
def execListReorders (s : State) : Host.Outcome State Fault Refusal :=
  onRequest .listReorders listReordersRule s

/-! ### Requests on a reorder -/

/-- Steps 1 to 5 of R9 for a request that names a reorder; `valid` holds of the rest of its body (R138, R139,
R141). -/
def namedReorder (k : Kind) (q : Request) (valid : Bool) (s : State) : Except Reason Reorder := do
  let n := q.field 0 2
  authorise k q [s.bindReorder n] s
  require (n ≠ 0 && valid) .outOfRange
  demand (s.reorderAt n) .noSuch

/-- A DEFERRED reorder becomes PROPOSED and is counted (R138). -/
def State.approve (s : State) (r : Reorder) : State :=
  let s' := (s.updateReorder r.number (fun x => { x with state := .proposed })).setSuppliesUsed r.tenant countOne
  s'.notify (s'.proposedNotice r true false)

/-- A tenant's supplies allowance rises by one (R138). -/
def State.raiseAllowance (s : State) (t : Nat) : State :=
  { s with tenants := s.tenants.update t (fun x => { x with suppliesAllowance := x.suppliesAllowance + 1 }) }

/-- The body of an accepted APPROVE REORDER (R138). -/
def State.approvedBody (s : State) (r : Reorder) : ReplyBody :=
  .approved { r with state := .proposed } (s.tenantOf r.tenant).suppliesUsed (s.tenantOf r.tenant).suppliesAllowance

/-- APPROVE REORDER (R138), with the path reserved to role 0. -/
def approveReorderRule : Rule := fun q s => do
  let r ← namedReorder .approveReorder q true s
  require (r.state = .deferred) .wrongState
  let t := s.tenantOf r.tenant
  if t.hasSupplies then .ok { state := s.approve r, body := (s.approve r).approvedBody r }
  else
    require (q.role = 0 && t.suppliesAllowance < 1000) .limit
    let s' := (s.raiseAllowance r.tenant).approve r
    .ok { state := s', body := s'.approvedBody r }

/-- APPROVE_REORDER. -/
def execApproveReorder (s : State) : Host.Outcome State Fault Refusal :=
  onRequest .approveReorder approveReorderRule s

/-- PLACE REORDER (R139). -/
def placeReorderRule : Rule := fun q s => do
  let minutes := q.field 2 2
  let r ← namedReorder .placeReorder q (inRange 1 43200 minutes) s
  require (r.state = .proposed) .wrongState
  let due := s.minuteAfter minutes
  .ok { state := s.updateReorder r.number (fun x => { x with state := .placed, due := some due })
        body := .placed due }

/-- PLACE_REORDER. -/
def execPlaceReorder (s : State) : Host.Outcome State Fault Refusal :=
  onRequest .placeReorder placeReorderRule s

/-- CANCEL REORDER (R141). -/
def cancelReorderRule : Rule := fun q s => do
  let r ← namedReorder .cancelReorder q true s
  let s' := s.cancelOne r
  .ok { state := s', body := .cancelled (s'.tenantOf r.tenant).suppliesUsed }

/-- CANCEL_REORDER. -/
def execCancelReorder (s : State) : Host.Outcome State Fault Refusal :=
  onRequest .cancelReorder cancelReorderRule s

/-! ### The due minute -/

/-- REORDER_DUE_MINUTE (R140). -/
def execReorderDueMinute (reorder : Nat) (s : State) : Host.Outcome State Fault Refusal :=
  .next (s.whileRunning (fun s => s.fallsDue (.reorder reorder)))

end Sys2Proof.Machine
end

