-- ==== Sys2Proof/Machine/Tenants.lean ====
section
/-! DEFINITION. The requests of the Tenant and User Tables and of Quota Accounts (chapters 1 and 2). -/

namespace Sys2Proof.Machine

/-! ### Tenants -/

/-- The fields that PUT TENANT may write (section 1.4). -/
structure TenantChange where
  quotaMode         : Option Nat
  allowance         : Option Nat
  grace             : Option Nat
  warnPercent       : Option Nat
  jobLimit          : Option Nat
  releaseDepth      : Option Nat
  holdMinutes       : Option Nat
  partition         : Option Nat
  suppliesMode      : Option Nat
  suppliesAllowance : Option Nat
  leadCover         : Option Nat
  floorPercent      : Option Nat
  commitWindow      : Option Nat

/-- The fields a PUT TENANT body carries (10.7.3). -/
def tenantChangeOf (q : Request) : TenantChange :=
  let m := q.field 1 2
  { quotaMode := carried m 0 (q.field 3 1)
    allowance := carried m 1 (q.field 4 4)
    grace := carried m 2 (q.field 8 4)
    warnPercent := carried m 3 (q.field 12 1)
    jobLimit := carried m 4 (q.field 13 1)
    releaseDepth := carried m 5 (q.field 14 1)
    holdMinutes := carried m 6 (q.field 15 2)
    partition := carried m 7 (q.field 17 1)
    suppliesMode := carried m 8 (q.field 18 1)
    suppliesAllowance := carried m 9 (q.field 19 2)
    leadCover := carried m 10 (q.field 21 1)
    floorPercent := carried m 11 (q.field 22 1)
    commitWindow := carried m 12 (q.field 23 1) }

/-- Whether a change carries a field that role 2 may not write (R10). -/
def TenantChange.restricted (c : TenantChange) : Bool :=
  c.partition.isSome || c.quotaMode.isSome || c.allowance.isSome || c.grace.isSome ||
  c.suppliesMode.isSome || c.suppliesAllowance.isSome

/-- Whether every carried field lies in its range of R1, the partition below P (R10). -/
def TenantChange.valid (c : TenantChange) (p : Nat) : Bool :=
  optionAll c.quotaMode (inRange 0 1) && optionAll c.allowance (inRange 0 2000000000) &&
  optionAll c.grace (inRange 0 100000000) && optionAll c.warnPercent (inRange 50 100) &&
  optionAll c.jobLimit (inRange 1 32) && optionAll c.releaseDepth (inRange 1 16) &&
  optionAll c.holdMinutes (inRange 1 10080) && optionAll c.partition (fun k => k < p) &&
  optionAll c.suppliesMode (inRange 0 1) && optionAll c.suppliesAllowance (inRange 0 1000) &&
  optionAll c.leadCover (inRange 0 60) && optionAll c.floorPercent (inRange 0 50) &&
  optionAll c.commitWindow (inRange 1 30)

/-- A record with the carried fields written (R10). -/
def TenantChange.apply (c : TenantChange) (t : Tenant) : Tenant :=
  { t with
    quotaMode := (c.quotaMode.map modeOf).getD t.quotaMode
    allowance := c.allowance.getD t.allowance
    grace := c.grace.getD t.grace
    warnPercent := c.warnPercent.getD t.warnPercent
    jobLimit := c.jobLimit.getD t.jobLimit
    releaseDepth := c.releaseDepth.getD t.releaseDepth
    holdMinutes := c.holdMinutes.getD t.holdMinutes
    partition := c.partition.getD t.partition
    suppliesMode := (c.suppliesMode.map modeOf).getD t.suppliesMode
    suppliesAllowance := c.suppliesAllowance.getD t.suppliesAllowance
    leadCover := c.leadCover.getD t.leadCover
    floorPercent := c.floorPercent.getD t.floorPercent
    commitWindow := c.commitWindow.getD t.commitWindow }

/-- Whether the state checks of R10 let a record be written. -/
def State.tenantMayBecome (s : State) (n : Nat) (old new : Tenant) : Bool :=
  !s.users.any (fun p => p.2.tenant = n && new.jobLimit < p.2.jobCount) &&
  !(new.suppliesMode = .limited && new.suppliesAllowance < new.suppliesUsed) &&
  !(new.partition ≠ old.partition && s.users.any (fun p => p.2.tenant = n && 0 < p.2.jobCount))

/-- The body that GET TENANT returns (R12). -/
def State.tenantBody (s : State) (n : Nat) : ReplyBody :=
  let t := s.tenantOf n
  .tenant t (t.terms.reported t.account) (s.users.count (fun _ u => u.tenant = n))
    (s.stations.count (fun _ x => x.owner = n))

/-- PUT TENANT (R10, R11). -/
def putTenantRule : Rule := fun q s => do
  let n := q.field 0 1
  let c := tenantChangeOf q
  authorise .putTenant q [s.bindTenant n] s
  require (q.role = 0 || !c.restricted) .notPermitted
  require (n < Config.tenantCount && q.field 1 2 < 2 ^ 13 && c.valid s.partitions) .outOfRange
  require (q.role = 0 || s.tenants.has n) .noSuch
  let new := c.apply (s.tenantOf n)
  require (s.tenantMayBecome n (s.tenantOf n) new) .wrongState
  let s' := { s with tenants := s.tenants.put n new }
  .ok { state := s', body := s'.tenantBody n }

/-- PUT_TENANT. -/
def execPutTenant (s : State) : Host.Outcome State Fault Refusal := onRequest .putTenant putTenantRule s

/-- GET TENANT (R12). -/
def getTenantRule : Rule := fun q s => do
  let n := q.field 0 1
  authorise .getTenant q [s.bindTenant n] s
  require (n < Config.tenantCount) .outOfRange
  require (s.tenants.has n) .noSuch
  .ok { state := s, body := s.tenantBody n }

/-- GET_TENANT. -/
def execGetTenant (s : State) : Host.Outcome State Fault Refusal := onRequest .getTenant getTenantRule s

/-- Whether nothing that REMOVE TENANT looks at names a tenant (R13). -/
def State.tenantUnused (s : State) (n : Nat) : Bool :=
  !s.users.any (fun p => p.2.tenant = n) && !s.stations.any (fun p => p.2.owner = n) &&
  !s.reorders.any (fun r => r.tenant = n)

/-- A tenant becomes absent, and its number leaves every admitted set (R3, R13). -/
def State.removeTenant (s : State) (n : Nat) : State :=
  { s with
    tenants := s.tenants.remove n
    stations := s.stations.mapRecords
      (fun _ x => { x with admitted := x.admitted.filter (fun t => t ≠ n) }) }

/-- REMOVE TENANT (R13). -/
def removeTenantRule : Rule := fun q s => do
  let n := q.field 0 1
  authorise .removeTenant q [s.bindTenant n] s
  require (n < Config.tenantCount && n ≠ 0) .outOfRange
  require (s.tenants.has n) .noSuch
  require (s.tenantUnused n) .wrongState
  .ok { state := s.removeTenant n }

/-- REMOVE_TENANT. -/
def execRemoveTenant (s : State) : Host.Outcome State Fault Refusal :=
  onRequest .removeTenant removeTenantRule s

/-! ### Users -/

/-- The quota fields and colour permission that a user request may carry (R14, R15). -/
structure UserChange where
  quotaMode       : Option Nat
  allowance       : Option Nat
  grace           : Option Nat
  colourPermitted : Option Nat

/-- Whether every carried field lies in its range of R4. -/
def UserChange.valid (c : UserChange) : Bool :=
  optionAll c.quotaMode (inRange 0 1) && optionAll c.allowance (inRange 0 100000000) &&
  optionAll c.grace (inRange 0 1000000) && optionAll c.colourPermitted (inRange 0 1)

/-- A record with the carried fields written. -/
def UserChange.apply (c : UserChange) (u : User) : User :=
  { u with
    quotaMode := (c.quotaMode.map modeOf).getD u.quotaMode
    allowance := c.allowance.getD u.allowance
    grace := c.grace.getD u.grace
    colourPermitted := (c.colourPermitted.map flagOf).getD u.colourPermitted }

/-- Whether any user but `n` holds a badge (R5). -/
def State.badgeTaken (s : State) (badge n : Nat) : Bool := s.users.any (fun p => p.2.badge = badge && p.1 ≠ n)

/-- ENROL USER (R14). -/
def enrolUserRule : Rule := fun q s => do
  let badge := q.field 0 4
  let t := q.field 4 1
  let m := q.field 5 1
  let c : UserChange :=
    { quotaMode := carried m 0 (q.field 6 1)
      allowance := carried m 1 (q.field 7 4)
      grace := carried m 2 (q.field 11 3)
      colourPermitted := carried m 3 (q.field 14 1) }
  authorise .enrolUser q [.tenant t] s
  require (badge ≠ 0 && t < Config.tenantCount && m < 2 ^ 4 && c.valid) .outOfRange
  require (s.tenants.has t) .noSuch
  require (!s.badgeTaken badge Config.userCount) .duplicate
  let n := s.users.firstFree 0
  require (n < Config.userCount) .full
  let u := c.apply { badge := badge, tenant := t }
  .ok { state := { s with users := s.users.put n u }, body := .userNumber n }

/-- ENROL_USER. -/
def execEnrolUser (s : State) : Host.Outcome State Fault Refusal := onRequest .enrolUser enrolUserRule s

/-- The body that GET USER returns (R18). -/
def State.userBody (s : State) (u : User) : ReplyBody :=
  .user u ((s.userTerms u).reported u.account) (s.userTerms u).warnLevel

/-- AMEND USER (R15).  DEDUCED (assumption 13): from role 2, a tenant carried that is not the request's own is refused
NOT_PERMITTED also where it is absent, by R8, and does not pass to NO_SUCH, by step 3 of R9. -/
def amendUserRule : Rule := fun q s => do
  let n := q.field 0 2
  let m := q.field 2 1
  let badge := carried m 0 (q.field 3 4)
  let t := carried m 1 (q.field 7 1)
  let c : UserChange :=
    { quotaMode := carried m 2 (q.field 8 1)
      allowance := carried m 3 (q.field 9 4)
      grace := carried m 4 (q.field 13 3)
      colourPermitted := carried m 5 (q.field 16 1) }
  authorise .amendUser q (s.bindUser n :: (t.map Binding.tenant).toList) s
  require (n < Config.userCount && m < 2 ^ 6 && optionAll badge (fun b => b ≠ 0) &&
    optionAll t (fun t => t < Config.tenantCount) && c.valid) .outOfRange
  let u ← demand (s.users.fetch n) .noSuch
  require (optionAll t s.tenants.has) .noSuch
  require (optionAll badge (fun b => !s.badgeTaken b n)) .duplicate
  require (optionAll t (fun t => t = u.tenant || u.jobCount = 0)) .wrongState
  let u' := c.apply { u with badge := badge.getD u.badge, tenant := t.getD u.tenant }
  let s' := { s with users := s.users.put n u' }
  .ok { state := s', body := s'.userBody u' }

/-- AMEND_USER. -/
def execAmendUser (s : State) : Host.Outcome State Fault Refusal := onRequest .amendUser amendUserRule s

/-- SUSPEND USER and REINSTATE USER write a user's state (R16). -/
def userStateRule (k : Kind) (st : UserState) : Rule := fun q s => do
  let n := q.field 0 2
  authorise k q [s.bindUser n] s
  require (n < Config.userCount) .outOfRange
  require (s.users.has n) .noSuch
  .ok { state := { s with users := s.users.update n (fun u => { u with state := st }) } }

/-- SUSPEND_USER (R16). -/
def execSuspendUser (s : State) : Host.Outcome State Fault Refusal :=
  onRequest .suspendUser (userStateRule .suspendUser .suspended) s

/-- REINSTATE_USER (R16). -/
def execReinstateUser (s : State) : Host.Outcome State Fault Refusal :=
  onRequest .reinstateUser (userStateRule .reinstateUser .active) s

/-- Whether the job a handle names is QUEUED or PRINTING. -/
def State.isReleased (s : State) (handle : Nat) : Bool :=
  match s.jobNamed handle with
  | some j => j.state = .queued || j.state = .printing
  | none => false

/-- Delete one job of a removed user, with its notice (R17). -/
def State.deleteOfRemoved (s : State) (handle : Nat) : State :=
  match s.jobNamed handle with
  | some j => (s.deleteJob j).notify (.jobDeleted j.handle j.owner j.spoolRef .userRemoved)
  | none => s

/-- REMOVE USER (R17). -/
def removeUserRule : Rule := fun q s => do
  let n := q.field 0 2
  authorise .removeUser q [s.bindUser n] s
  require (n < Config.userCount) .outOfRange
  let u ← demand (s.users.fetch n) .noSuch
  require (!u.owned.any s.isReleased) .wrongState
  let s' := u.owned.foldl State.deleteOfRemoved s
  .ok { state := { s' with users := s'.users.remove n }, body := .jobsDeleted u.owned.length }

/-- REMOVE_USER. -/
def execRemoveUser (s : State) : Host.Outcome State Fault Refusal := onRequest .removeUser removeUserRule s

/-- GET USER (R18). -/
def getUserRule : Rule := fun q s => do
  let n := q.field 0 2
  authorise .getUser q [s.bindUser n] s
  require (n < Config.userCount) .outOfRange
  let u ← demand (s.users.fetch n) .noSuch
  .ok { state := s, body := s.userBody u }

/-- GET_USER. -/
def execGetUser (s : State) : Host.Outcome State Fault Refusal := onRequest .getUser getUserRule s

/-- FIND BADGE (R18). -/
def findBadgeRule : Rule := fun q s => do
  let b := q.field 0 4
  authorise .findBadge q [s.bindBadge b] s
  require (b ≠ 0) .outOfRange
  let p ← demand (s.badgeHolder b) .noSuch
  .ok { state := s, body := .userNumber p.1 }

/-- FIND_BADGE. -/
def execFindBadge (s : State) : Host.Outcome State Fault Refusal := onRequest .findBadge findBadgeRule s

/-! ### Accounts and rates -/

/-- The binding of the account that ADJUST ACCOUNT names: a user account to the user's tenant, and any other
to no tenant (R8; assumption 9). -/
def State.bindAccount (s : State) (kind n : Nat) : Binding := if kind = 0 then s.bindUser n else .outside

/-- The body of an accepted ADJUST ACCOUNT (R39). -/
def adjustedBody (q : Terms) (prior : Nat) (a : Account) : ReplyBody :=
  .adjusted prior a.used a.reserved a.saturated (q.reported a)

/-- ADJUST ACCOUNT (R38, R39). -/
def adjustAccountRule : Rule := fun q s => do
  let kind := q.field 0 1
  let n := q.field 1 2
  let d := q.signedField 3
  authorise .adjustAccount q [s.bindAccount kind n] s
  require (kind ≤ 1 && (if kind = 0 then n < Config.userCount else n < Config.tenantCount) &&
    -(Config.maxAccount : Int) ≤ d && d ≤ Config.maxAccount) .outOfRange
  if kind = 0 then
    let u ← demand (s.users.fetch n) .noSuch
    let a := u.account.adjust d
    .ok { state := s.checkUser n u.account.used u a
          body := adjustedBody (s.userTerms u) u.account.used a }
  else
    let t ← demand (s.tenants.fetch n) .noSuch
    let a := t.account.adjust d
    .ok { state := s.checkTenant n t.account.used t a
          body := adjustedBody t.terms t.account.used a }

/-- ADJUST_ACCOUNT. -/
def execAdjustAccount (s : State) : Host.Outcome State Fault Refusal :=
  onRequest .adjustAccount adjustAccountRule s

/-- The rates of one class in a SET RATES body (R22). -/
def Request.rates (q : Request) (off : Nat) : ClassRates := ⟨q.field off 1, q.field (off + 1) 1, q.field (off + 2) 1⟩

/-- SET RATES (R22); one byte holds 0..255, so no carried rate is out of range. -/
def setRatesRule : Rule := fun q s => do
  let r : RateTable := ⟨q.rates 0, q.rates 3, q.rates 6⟩
  authorise .setRates q [] s
  require (r.s.mono ≤ r.s.colour && r.l.mono ≤ r.l.colour && r.e.mono ≤ r.e.colour) .outOfRange
  .ok { state := { s with rates := r } }

/-- SET_RATES. -/
def execSetRates (s : State) : Host.Outcome State Fault Refusal := onRequest .setRates setRatesRule s

end Sys2Proof.Machine
end

