-- ==== Sys2Proof/Machine/Dispatch.lean ====
section
/-! DEFINITION. The dispatch of commands: one arm per constructor of `Instr`, each one direct call of its meaning. -/

namespace Sys2Proof.Machine

/-- The effect of a command on everything but the queue of commands that wait. -/
def exec (i : Instr) (s : State) : Host.Outcome State Fault Refusal :=
  match i with
  | .powerOn straps => Sys2Proof.Machine.execPowerOn straps s
  | .resetAsserted => Sys2Proof.Machine.execResetAsserted s
  | .resetReleased straps => Sys2Proof.Machine.execResetReleased straps s
  | .requestFrame bytes => Sys2Proof.Machine.execRequestFrame bytes s
  | .requestQueueFull => Sys2Proof.Machine.execRequestQueueFull s
  | .unknownRequest => Sys2Proof.Machine.execUnknownRequest s
  | .badLength => Sys2Proof.Machine.execBadLength s
  | .putTenant => Sys2Proof.Machine.execPutTenant s
  | .getTenant => Sys2Proof.Machine.execGetTenant s
  | .removeTenant => Sys2Proof.Machine.execRemoveTenant s
  | .enrolUser => Sys2Proof.Machine.execEnrolUser s
  | .amendUser => Sys2Proof.Machine.execAmendUser s
  | .suspendUser => Sys2Proof.Machine.execSuspendUser s
  | .reinstateUser => Sys2Proof.Machine.execReinstateUser s
  | .removeUser => Sys2Proof.Machine.execRemoveUser s
  | .getUser => Sys2Proof.Machine.execGetUser s
  | .findBadge => Sys2Proof.Machine.execFindBadge s
  | .adjustAccount => Sys2Proof.Machine.execAdjustAccount s
  | .setRates => Sys2Proof.Machine.execSetRates s
  | .holdJob => Sys2Proof.Machine.execHoldJob s
  | .commitSpool => Sys2Proof.Machine.execCommitSpool s
  | .cancelJob => Sys2Proof.Machine.execCancelJob s
  | .spoolFault => Sys2Proof.Machine.execSpoolFault s
  | .getJob => Sys2Proof.Machine.execGetJob s
  | .listJobs => Sys2Proof.Machine.execListJobs s
  | .setPartitions => Sys2Proof.Machine.execSetPartitions s
  | .probeRelease => Sys2Proof.Machine.execProbeRelease s
  | .setReleaseTiming => Sys2Proof.Machine.execSetReleaseTiming s
  | .admitStation => Sys2Proof.Machine.execAdmitStation s
  | .parkStation => Sys2Proof.Machine.execParkStation s
  | .unparkStation => Sys2Proof.Machine.execUnparkStation s
  | .setStation => Sys2Proof.Machine.execSetStation s
  | .retireStation => Sys2Proof.Machine.execRetireStation s
  | .getStation => Sys2Proof.Machine.execGetStation s
  | .sweepRiser => Sys2Proof.Machine.execSweepRiser s
  | .linkReset => Sys2Proof.Machine.execLinkReset s
  | .getConsumable => Sys2Proof.Machine.execGetConsumable s
  | .listReorders => Sys2Proof.Machine.execListReorders s
  | .approveReorder => Sys2Proof.Machine.execApproveReorder s
  | .placeReorder => Sys2Proof.Machine.execPlaceReorder s
  | .cancelReorder => Sys2Proof.Machine.execCancelReorder s
  | .ackCallout => Sys2Proof.Machine.execAckCallout s
  | .closeCallout => Sys2Proof.Machine.execCloseCallout s
  | .setCalloutPolicy => Sys2Proof.Machine.execSetCalloutPolicy s
  | .listCallouts => Sys2Proof.Machine.execListCallouts s
  | .readClock => Sys2Proof.Machine.execReadClock s
  | .setClock => Sys2Proof.Machine.execSetClock s
  | .setInterval => Sys2Proof.Machine.execSetInterval s
  | .readInterval => Sys2Proof.Machine.execReadInterval s
  | .partInfo => Sys2Proof.Machine.execPartInfo s
  | .fetchNotice => Sys2Proof.Machine.execFetchNotice s
  | .setNoticeMask => Sys2Proof.Machine.execSetNoticeMask s
  | .restartJobs => Sys2Proof.Machine.execRestartJobs s
  | .restartAll => Sys2Proof.Machine.execRestartAll s
  | .poll riser => Sys2Proof.Machine.execPoll riser s
  | .emptyCycle riser => Sys2Proof.Machine.execEmptyCycle riser s
  | .sweepTrial riser reply => Sys2Proof.Machine.execSweepTrial riser reply s
  | .miss riser => Sys2Proof.Machine.execMiss riser s
  | .idle h => Sys2Proof.Machine.execIdle h s
  | .hello h model caps sizes => Sys2Proof.Machine.execHello h model caps sizes s
  | .badge h number => Sys2Proof.Machine.execBadge h number s
  | .jobStart h token => Sys2Proof.Machine.execJobStart h token s
  | .jobProgress h token im ic hs => Sys2Proof.Machine.execJobProgress h token im ic hs s
  | .jobEnd h token im ic hs => Sys2Proof.Machine.execJobEnd h token im ic hs s
  | .jobAbort h token im ic hs reason => Sys2Proof.Machine.execJobAbort h token im ic hs reason s
  | .levels h k c m y => Sys2Proof.Machine.execLevels h k c m y s
  | .faultSet h cls colours => Sys2Proof.Machine.execFaultSet h cls colours s
  | .faultClear h cls colours => Sys2Proof.Machine.execFaultClear h cls colours s
  | .pause h => Sys2Proof.Machine.execPause h s
  | .resume h => Sys2Proof.Machine.execResume h s
  | .eventDiscarded h => Sys2Proof.Machine.execEventDiscarded h s
  | .holdDeadline slot => Sys2Proof.Machine.execHoldDeadline slot s
  | .commitDeadline slot => Sys2Proof.Machine.execCommitDeadline slot s
  | .startDeadline slot => Sys2Proof.Machine.execStartDeadline slot s
  | .abandonDeadline slot => Sys2Proof.Machine.execAbandonDeadline slot s
  | .faultDueMinute station cls => Sys2Proof.Machine.execFaultDueMinute station cls s
  | .tierDeadline callout => Sys2Proof.Machine.execTierDeadline callout s
  | .reorderDueMinute reorder => Sys2Proof.Machine.execReorderDueMinute reorder s
  | .clockAdvance => Sys2Proof.Machine.execClockAdvance s
  | .intervalExpired counter => Sys2Proof.Machine.execIntervalExpired counter s

end Sys2Proof.Machine
end

