-- ==== Sys2Proof/Machine/Step.lean ====
section
/-! DEFINITION. One step: the command at the front of the queue is carried out.  The part has no program: commands
come from outside, and `State.withFetchWord` puts one at the front of the queue. -/

namespace Sys2Proof.Machine

/-- Carry out the command at the front of the queue on the state with the queue's rest; with no command waiting, TXD
finishes the reply it is sending and begins the next (R182; DESIGN CHOICE, assumption 11). -/
def step (s : State) : Host.Outcome State Fault Refusal :=
  match s.pending with
  | [] => .next s.idles
  | c :: rest => exec c { s with pending := rest }

/-- The state with the command that a word spells put at the front of its queue; unchanged where it spells none. -/
def State.withFetchWord (s : State) (nbits w : Nat) : State :=
  match decodeTableWord nbits w with
  | some c => { s with pending := c :: s.pending }
  | none => s

end Sys2Proof.Machine
end

