-- ==== Sys2Proof/Machine/Pins.lean ====
section
/-! DEFINITION. The levels of the output pins (section 10.1, R179); ATTN's is `State.attn` of Machine/Ops.lean.  They
follow from the state, and the direction of a riser's transceiver from the command being carried out. -/

namespace Sys2Proof.Machine

/-- TXD stands idle (high): no reply is being sent, or RESET is held low (R179, R182). -/
def State.txdIdle (s : State) : Bool := s.resetHeld || s.txd.isNone

/-- Whether the next step of a riser's pass puts a poll on its line. -/
def State.sendsPoll (s : State) (r : Nat) : Bool :=
  (s.risers.item r).awaited.isNone && ((s.nextPoll r).risers.item r).awaited.isSome

/-- Whether a command has the part send on a riser's line: a POLL that sends a poll, and a SWEEP_TRIAL whose poll is
not yet awaited (R113, R125). -/
def State.sendsOn (s : State) (c : Instr) (r : Fin 4) : Bool :=
  match c with
  | .poll k => k = r && s.sendsPoll r.val
  | .sweepTrial k _ =>
    k = r && s.sendsPoll r.val && (((s.nextPoll r.val).risers.item r.val).awaited.map (·.trial)) = some true
  | _ => false

/-- The level of RnDIR while a command is carried out (section 10.1): high while the part sends on riser n, held low
under RESET (R179).  Between commands it is low, because the part then sends on no riser. -/
def State.rnDir (s : State) (c : Instr) (r : Fin 4) : Bool := !s.resetHeld && s.sendsOn c r

end Sys2Proof.Machine
end

