-- ==== Sys2Proof/Safety.lean ====
section
/-! DEFINITION. The terms in which the statements speak: when a request's turn has come and what its answer leaves,
when a reply's poll is awaited, and the invariants of a safe state. -/

namespace Sys2Proof.Machine

/-! ### Requests -/

/-- Which queued request a command of the table carries out; no request for a command that is not a request's. -/
def carriesOut (i : Instr) (q : Request) : Bool :=
  match i with
  | .unknownRequest => q.isUnknown
  | .badLength => q.isBadLength
  | .putTenant => q.isKind .putTenant
  | .getTenant => q.isKind .getTenant
  | .removeTenant => q.isKind .removeTenant
  | .enrolUser => q.isKind .enrolUser
  | .amendUser => q.isKind .amendUser
  | .suspendUser => q.isKind .suspendUser
  | .reinstateUser => q.isKind .reinstateUser
  | .removeUser => q.isKind .removeUser
  | .getUser => q.isKind .getUser
  | .findBadge => q.isKind .findBadge
  | .adjustAccount => q.isKind .adjustAccount
  | .setRates => q.isKind .setRates
  | .holdJob => q.isKind .holdJob
  | .commitSpool => q.isKind .commitSpool
  | .cancelJob => q.isKind .cancelJob
  | .spoolFault => q.isKind .spoolFault
  | .getJob => q.isKind .getJob
  | .listJobs => q.isKind .listJobs
  | .setPartitions => q.isKind .setPartitions
  | .probeRelease => q.isKind .probeRelease
  | .setReleaseTiming => q.isKind .setReleaseTiming
  | .admitStation => q.isKind .admitStation
  | .parkStation => q.isKind .parkStation
  | .unparkStation => q.isKind .unparkStation
  | .setStation => q.isKind .setStation
  | .retireStation => q.isKind .retireStation
  | .getStation => q.isKind .getStation
  | .sweepRiser => q.isKind .sweepRiser
  | .linkReset => q.isKind .linkReset
  | .getConsumable => q.isKind .getConsumable
  | .listReorders => q.isKind .listReorders
  | .approveReorder => q.isKind .approveReorder
  | .placeReorder => q.isKind .placeReorder
  | .cancelReorder => q.isKind .cancelReorder
  | .ackCallout => q.isKind .ackCallout
  | .closeCallout => q.isKind .closeCallout
  | .setCalloutPolicy => q.isKind .setCalloutPolicy
  | .listCallouts => q.isKind .listCallouts
  | .readClock => q.isKind .readClock
  | .setClock => q.isKind .setClock
  | .setInterval => q.isKind .setInterval
  | .readInterval => q.isKind .readInterval
  | .partInfo => q.isKind .partInfo
  | .fetchNotice => q.isKind .fetchNotice
  | .setNoticeMask => q.isKind .setNoticeMask
  | .restartJobs => q.isRestart 1
  | .restartAll => q.isRestart 0
  | .powerOn _ | .resetAsserted | .resetReleased _ | .requestFrame _ | .requestQueueFull | .poll _
  | .emptyCycle _ | .sweepTrial _ _ | .miss _ | .idle _ | .hello _ _ _ _ | .badge _ _ | .jobStart _ _
  | .jobProgress _ _ _ _ _ | .jobEnd _ _ _ _ _ | .jobAbort _ _ _ _ _ _ | .levels _ _ _ _ _
  | .faultSet _ _ _ | .faultClear _ _ _ | .pause _ | .resume _ | .eventDiscarded _ | .holdDeadline _
  | .commitDeadline _ | .startDeadline _ | .abandonDeadline _ | .faultDueMinute _ _ | .tierDeadline _
  | .reorderDueMinute _ | .clockAdvance | .intervalExpired _ => false

/-- The turn of a request of a kind has come: RESET is not held, the request is the oldest queued, and it has its
kind's code and body length. -/
structure State.Turn (s : State) (k : Kind) (q : Request) (rest : List Request) : Prop where
  running : s.resetHeld = false
  front   : s.requests = q :: rest
  kind    : q.isKind k = true

/-- The request has left the queue. -/
def State.leaving (s : State) (rest : List Request) : State := { s with requests := rest }

/-- The request has left the queue and is answered, and nothing else has changed. -/
def State.answered (s : State) (rest : List Request) (q : Request) (a : Answer) : State := (s.leaving rest).reply q a

/-! ### Replies of the riser links -/

/-- A reply is a good reply of a station with a link record: it names the address of the poll awaited on its riser,
which is neither a sweep trial nor to be discarded. -/
structure State.Heard (s : State) (h : ReplyHeader) (p : AwaitedPoll) (l : Link) : Prop where
  running  : s.resetHeld = false
  awaited  : (s.risers.item h.riser.val).awaited = some p
  visit    : p.trial = false
  kept     : p.discarded = false
  address  : p.drop = h.drop
  link     : s.links.fetch (stationAt h.riser.val h.drop) = some l

/-- The station a reply comes from. -/
def stationOf (h : ReplyHeader) : Nat := stationAt h.riser.val h.drop

/-- What a good reply does before its event is looked at: the burst decision of R113, and steps 1 and 2 of R114. -/
def State.afterReply (s : State) (h : ReplyHeader) (p : AwaitedPoll) (l : Link) (isIdle : Bool) : State :=
  ((s.afterGood h.riser.val p isIdle).linkHealth (stationOf h) l).commandTaken (stationOf h) p h.taken

/-- A good reply whose event is new: the accepted bit takes the reply's bit (R114 step 3). -/
def State.acceptEvent (s : State) (h : ReplyHeader) (p : AwaitedPoll) (l : Link) : State :=
  (s.afterReply h p l false).updateLink (stationOf h) (fun l => { l with accepted := some h.seq })

/-- A report's token matches a job at a station (R96): it names an occupied slot whose generation agrees, the job is
released at that station, and its entry there is SENT. -/
structure State.Matched (s : State) (st token : Nat) (j : Job) (c : Charging) (x : Station) : Prop where
  job        : s.jobs.fetch (token / 64) = some j
  generation : s.generation (token / 64) % 64 = token % 64
  released   : j.charging = some c
  here       : c.station = st
  station    : s.stations.fetch st = some x
  sent       : ∃ e ∈ x.queue, e.handle = j.handle ∧ e.sub = .sent
  slot       : j.handle / 256 = token / 64

/-! ### Invariants -/

/-- A counter's count lies in 1..preload while it runs, and is 0 while it is stopped (R172). -/
def Counter.inv (c : Counter) : Prop := c.count ≤ c.preload ∧ (c.count = 0 ↔ c.preload = 0)

/-- The clock, the counters and every account's used stay in their ranges (R29, R168, R172). -/
structure State.CountInv (s : State) : Prop where
  clock   : s.clock ≤ 4294967295
  ic0     : s.counters.q0.inv
  ic1     : s.counters.q1.inv
  ic2     : s.counters.q2.inv
  ic3     : s.counters.q3.inv
  users   : ∀ p ∈ s.users, p.2.account.used ≤ 2000000000
  tenants : ∀ p ∈ s.tenants, p.2.account.used ≤ 2000000000

/-- Every table is in its canonical form: strictly rising numbers, so that each record stands once; a job stands in
the slot its handle names, with that slot's generation in the handle (R45 to R48); and a fault entry stands under its
station and class (R148). -/
structure State.Canonical (s : State) : Prop where
  links       : s.links.Sorted
  stations    : s.stations.Sorted
  jobs        : s.jobs.Sorted
  generations : s.generations.Sorted
  tenants     : s.tenants.Sorted
  users       : s.users.Sorted
  consumables : s.consumables.Sorted
  faults      : s.faults.Sorted
  callouts    : s.callouts.Sorted
  slots       : ∀ p ∈ s.generations, p.2 < 256
  handles     : ∀ p ∈ s.jobs, p.2.handle / 256 = p.1 ∧ p.2.handle % 256 = s.generation p.1
  classes     : ∀ p ∈ s.faults, p.1 = p.2.station * 8 + classCode p.2.cls

/-- Every job stands once in its owner's list, and every handle of a list names a job of that owner; the job count is
the list's length (R4, R51). -/
structure State.OwnerInv (s : State) : Prop where
  canonical : s.Canonical
  count     : ∀ p ∈ s.users, p.2.jobCount = p.2.owned.length
  once      : ∀ p ∈ s.users, p.2.owned.Nodup
  named     : ∀ p ∈ s.users, ∀ h ∈ p.2.owned, ∃ j, s.jobNamed h = some j ∧ j.owner = p.1
  listed    : ∀ p ∈ s.jobs, ∃ u, s.users.fetch p.2.owner = some u ∧ p.2.handle ∈ u.owned

/-- A station's command list holds at most 4 commands and at most one SHOW, and no SHOW is held back
(R119, R120, R127). -/
structure Link.inv (l : Link) : Prop where
  size  : l.commands.length ≤ 4
  shows : (l.commands.filter Command.isShow).length ≤ 1
  held  : ∀ c ∈ l.held, c.isShow = false

/-- The part's queues keep their capacities: the request queue, the notice queue, and every station's command list
(R119, R182, R184). -/
structure State.QueueInv (s : State) : Prop where
  requests : s.requests.length ≤ 8
  notices  : s.notices.length ≤ 64
  commands : ∀ p ∈ s.links, p.2.inv

end Sys2Proof.Machine
end

