-- ==== Sys2Proof/Certificates/Slice0/Obligations.lean ====
section
/-! DEFINITION. The statements for the provers.  Each says in its docstring which rules it formalises and, where it
rests on a choice of the model, which log entry. -/

open Sys2Proof Sys2Proof.Machine

/-! ### The queue of commands, power and RESET -/

/-- The command at the front of the queue is carried out on the state with the queue's rest.  That a step with no
command waiting lets TXD finish its reply and begin the next, an owed REQUEST_QUEUE_FULL answer before any reply formed
(R182), and that it changes nothing under RESET, is the model's choice (assumption 11). -/
def Obligations.StepRunsFrontCommand : Prop :=
  (∀ (c : Instr) (rest : List Instr) (s : State), s.pending = c :: rest →
    step s = exec c { s with pending := rest }) ∧
  (∀ s : State, s.pending = [] → s.resetHeld = true → step s = .next s) ∧
  (∀ s : State, s.pending = [] → s.resetHeld = false →
    (∀ f more, s.overflow = f :: more →
      step s = .next { s with txd := some ⟨f.1, f.2, .refused .requestQueueFull⟩, overflow := more }) ∧
    (∀ r more, s.overflow = [] → s.replies = r :: more → step s = .next { s with txd := some r, replies := more }) ∧
    (s.overflow = [] → s.replies = [] → step s = .next { s with txd := none }))

/-- What every record holds after power-on: the restart tables of R20, R44, R65, R85, R95, R109, R128, R146, R163,
R167 and R178, with R21 and R179. -/
def Obligations.ResetLeavesPowerOnValues : Prop :=
  let s := State.reset
  (s.requests = [] ∧ s.notices = [] ∧ s.lost = false ∧ s.attn = false ∧ s.txdIdle = true ∧
    (∀ c : NoticeClass, s.mask.enables c = true)) ∧
  (s.tenants.numbers = [0] ∧ (s.tenantOf 0).quotaMode = .unlimited ∧ (s.tenantOf 0).allowance = 0 ∧
    (s.tenantOf 0).grace = 0 ∧ (s.tenantOf 0).account = {} ∧ (s.tenantOf 0).warnPercent = 80 ∧
    (s.tenantOf 0).jobLimit = 8 ∧ (s.tenantOf 0).releaseDepth = 4 ∧ (s.tenantOf 0).holdMinutes = 1440 ∧
    (s.tenantOf 0).partition = 0 ∧ (s.tenantOf 0).suppliesMode = .unlimited ∧
    (s.tenantOf 0).suppliesAllowance = 0 ∧ (s.tenantOf 0).suppliesUsed = 0 ∧ (s.tenantOf 0).leadCover = 10 ∧
    (s.tenantOf 0).floorPercent = 8 ∧ (s.tenantOf 0).commitWindow = 2) ∧
  (s.users = [] ∧ s.jobs = [] ∧ (∀ slot, s.generation slot = 0) ∧ s.partitions = 1) ∧
  (s.rates.s = ⟨1, 5, 1⟩ ∧ s.rates.l = ⟨2, 10, 2⟩ ∧ s.rates.e = ⟨1, 5, 1⟩) ∧
  (s.stations = [] ∧ s.freePool = 512 ∧ s.startWindow = 10 ∧ s.abandonWindow = 30) ∧
  (s.links = [] ∧ ∀ r, r < 4 → (s.risers.item r).burst = 2 ∧ (s.risers.item r).position = 1 ∧
    (s.risers.item r).sweep = none) ∧
  (s.consumables = [] ∧ s.reorders = [] ∧ s.nextReorder = 1) ∧
  (s.faults = [] ∧ s.callouts = [] ∧ s.pendingFaults = [] ∧ s.nextCallout = 1 ∧
    s.policy = ⟨15, 15, 15, 0, 0, 5, 30, 60, 120⟩) ∧
  (s.clock = 0 ∧ s.counters.q0 = ⟨.minutes, 43200, 43200⟩ ∧ s.counters.q1 = ⟨.minutes, 43200, 43200⟩ ∧
    s.counters.q2 = ⟨.minutes, 1440, 1440⟩ ∧ s.counters.q3 = ⟨.minutes, 60, 60⟩)

/-- POWER_ON and RESET_RELEASED read the straps and leave every record at its power-on value (what the two leave
of the RESET level and of the model's own fields is assumption 24, and that a frame partly received, replies not sent
and answers owed are dropped is assumption 29), and RESET_ASSERTED changes no record and holds ATTN low and TXD idle
(R179). -/
def Obligations.PowerAndResetCommands : Prop :=
  ∀ (s : State) (straps : BitVec 3),
    exec (.powerOn straps) s = .next { State.reset with
      resetHeld := s.resetHeld, rate := straps, choices := s.choices, pending := s.pending } ∧
    exec (.resetReleased straps) s = .next { State.reset with
      resetHeld := false, rate := straps, choices := s.choices, pending := s.pending } ∧
    exec .resetAsserted s = .next { s with resetHeld := true } ∧
    ({ s with resetHeld := true } : State).attn = false ∧ ({ s with resetHeld := true } : State).txdIdle = true

/-- While RESET is held low, TXD stands idle (high), ATTN is low and every RnDIR is low whatever the command, and no
command but a power or RESET command changes anything (R179; assumption 6 for the commands that are neither a byte on
RXD nor a poll).  With RESET high, TXD is idle when it sends no reply, ATTN is high while a notice is queued, and RnDIR
is high during a POLL of riser n exactly when that POLL sends a poll (R113, R179, R182, R184). -/
def Obligations.ResetHeldStopsEveryBlock : Prop :=
  (∀ (i : Instr) (s : State), s.resetHeld = true →
    s.txdIdle = true ∧ s.attn = false ∧ (∀ r, s.rnDir i r = false) ∧
    ((∀ p, i ≠ .powerOn p) → (∀ p, i ≠ .resetReleased p) → i ≠ .resetAsserted → exec i s = .next s)) ∧
  (∀ s : State, s.resetHeld = false →
    (s.txdIdle = true ↔ s.txd = none) ∧ (s.attn = true ↔ s.notices ≠ []) ∧
    (∀ (r : Fin 4) (t : State), exec (.poll r) s = .next t →
      (s.rnDir (.poll r) r = true ↔
        (s.risers.item r.val).awaited = none ∧ (t.risers.item r.val).awaited ≠ none)))

/-! ### The host port -/

/-- A frame with a good check enters the request queue whatever noise without a sync byte came before it, and a frame
that fails its check is discarded without trace (R180, R181, R182; 10.7.2). -/
def Obligations.FramesAreCheckedAndQueued : Prop :=
  ∀ (s : State) (noise body : List Byte) (kind tag rt : Byte),
    s.resetHeld = false → s.rx = [] → (∀ b ∈ noise, b ≠ 0xC5#8) → body.length ≤ 1020 → s.requests.length < 8 →
    let head : List Byte :=
      [BitVec.ofNat 8 (body.length / 256), BitVec.ofNat 8 body.length, kind, tag, rt]
    let sum := ((head ++ body).map BitVec.toNat).sum % 65536
    exec (.requestFrame (noise ++ 0xC5#8 :: (head ++ body ++
        [BitVec.ofNat 8 (sum / 256), BitVec.ofNat 8 sum]))) s =
      .next { s with requests := s.requests ++
        [{ kind := kind, tag := tag, role := rt.toNat / 64, tenant := rt.toNat % 32, body := body }] } ∧
    ∀ c1 c0 : Byte, c1.toNat * 256 + c0.toNat ≠ sum →
      exec (.requestFrame (noise ++ 0xC5#8 :: (head ++ body ++ [c1, c0]))) s = .next s

/-- A frame that completes while 8 requests are queued is not queued.  Its REFUSED REQUEST_QUEUE_FULL answer is what TXD
begins when it has finished the reply it is sending, the oldest such frame first and ahead of every reply that waits to
be sent; a reply formed begins at once when nothing is to be sent before it, and else waits behind the replies formed
before it (R182; assumption 14 for the step at which TXD has finished). -/
def Obligations.FullQueueTurnsFramesAway : Prop :=
  (∀ (s : State) (body : List Byte) (kind tag rt : Byte),
    s.resetHeld = false → s.rx = [] → body.length ≤ 1020 → 8 ≤ s.requests.length →
    let head : List Byte :=
      [BitVec.ofNat 8 (body.length / 256), BitVec.ofNat 8 body.length, kind, tag, rt]
    let sum := ((head ++ body).map BitVec.toNat).sum % 65536
    exec (.requestFrame (0xC5#8 :: (head ++ body ++ [BitVec.ofNat 8 (sum / 256), BitVec.ofNat 8 sum]))) s =
      .next { s with overflow := s.overflow ++ [(kind, tag)] }) ∧
  (∀ (s : State) (kind tag : Byte) (more : List (Byte × Byte)),
    s.resetHeld = false → s.overflow = (kind, tag) :: more →
    exec .requestQueueFull s =
      .next { s with txd := some ⟨kind, tag, .refused .requestQueueFull⟩, overflow := more }) ∧
  (∀ s : State, s.overflow = [] → exec .requestQueueFull s = .next s) ∧
  (∀ (s : State) (q : Request) (a : Answer),
    (s.txd = none → s.overflow = [] → s.replies = [] →
      s.reply q a = { s with txd := some ⟨q.kind, q.tag, a⟩, replies := [] }) ∧
    ((s.txd ≠ none ∨ s.overflow ≠ [] ∨ s.replies ≠ []) →
      s.reply q a = { s with replies := s.replies ++ [⟨q.kind, q.tag, a⟩] }))

/-- A frame whose length field is above 1,020 is queued as it stands, and its turn answers BAD_LENGTH; so does that
of a frame whose body length is not that of its kind; and a kind the table does not list is answered
UNKNOWN_REQUEST (R181). -/
def Obligations.UnusableFramesAreRefusedInTurn : Prop :=
  (∀ (s : State) (l1 l0 kind tag rt : Byte),
    s.resetHeld = false → s.rx = [] → s.requests.length < 8 → 1020 < l1.toNat * 256 + l0.toNat →
    ∃ q, exec (.requestFrame [0xC5#8, l1, l0, kind, tag, rt]) s =
        .next { s with requests := s.requests ++ [q] } ∧ q.kind = kind ∧ q.tag = tag ∧ q.oversize = true) ∧
  (∀ (s : State) (q : Request) (rest : List Request), s.resetHeld = false → s.requests = q :: rest →
    (q.oversize = true ∨ ∃ k, kindOfCode q.kind = some k ∧ q.body.length ≠ k.bodyLength) →
    exec .badLength s = .next (s.answered rest q (.refused .badLength))) ∧
  (∀ (s : State) (q : Request) (rest : List Request), s.resetHeld = false → s.requests = q :: rest →
    q.oversize = false → kindOfCode q.kind = none →
    exec .unknownRequest s = .next (s.answered rest q (.refused .unknownRequest)))

/-- In its turn every request gets one answer that echoes its kind and tag, formed after all its effects; and an
answer that is a refusal leaves every record as it was (R182, R183). -/
def Obligations.RefusalsLeaveEveryRecord : Prop :=
  ∀ (i : Instr) (s : State) (q : Request) (rest : List Request),
    s.resetHeld = false → s.requests = q :: rest → carriesOut i q = true →
    ∃ (t : State) (a : Answer), exec i s = .next (t.reply q a) ∧
      ∀ r, a = .refused r → t = s.leaving rest

/-- A request whose kind its role may not issue, or whose tenant-bound role carries an absent tenant, is refused
NOT_PERMITTED before anything else is looked at (R7, R8, R9 steps 1 and 2). -/
def Obligations.RoleWithoutPermissionIsRefused : Prop :=
  ∀ (i : Instr) (k : Kind) (s : State) (q : Request) (rest : List Request),
    s.resetHeld = false → s.requests = q :: rest → carriesOut i q = true → i ≠ .badLength →
    kindOfCode q.kind = some k →
    (k.permission q.role = .no ∨ (2 ≤ q.role ∧ s.tenants.has q.tenant = false)) →
    exec i s = .next (s.answered rest q (.refused .notPermitted))

/-- R187, whole: PART INFO. -/
def Obligations.PartInfoGivesCapacities : Prop :=
  ∀ (s : State) (q : Request) (rest : List Request), s.Turn .partInfo q rest →
    q.body = [] ∧
    ((q.role = 0 ∨ q.role = 1) → exec .partInfo s = .next (s.answered rest q
      (.ok (.partInfo 4160 2 [32, 4096, 1024, 96, 512, 384, 64, 48, 64, 8, 4])))) ∧
    (2 ≤ q.role → exec .partInfo s = .next (s.answered rest q (.refused .notPermitted)))

/-- R171, whole: READ CLOCK. -/
def Obligations.ReadClockGivesMinute : Prop :=
  ∀ (s : State) (q : Request) (rest : List Request), s.Turn .readClock q rest → q.role < 4 →
    ((q.role = 0 ∨ q.role = 1 ∨ (q.role = 3 ∧ s.tenants.has q.tenant = true)) →
      exec .readClock s = .next (s.answered rest q (.ok (.clock s.clock)))) ∧
    ((q.role = 2 ∨ (q.role = 3 ∧ s.tenants.has q.tenant = false)) →
      exec .readClock s = .next (s.answered rest q (.refused .notPermitted)))

/-- R186, whole: FETCH NOTICE. -/
def Obligations.FetchNoticeRemovesOldest : Prop :=
  ∀ (s : State) (q : Request) (rest : List Request), s.Turn .fetchNotice q rest → q.role < 4 →
    q.body = [] ∧
    ((q.role = 0 ∨ q.role = 1 ∨ (q.role = 3 ∧ s.tenants.has q.tenant = true)) →
      (∀ n ns, s.notices = n :: ns → exec .fetchNotice s = .next
        ({ s.leaving rest with notices := ns, lost := false }.reply q
          (.ok (.fetched (some n) (!ns.isEmpty) s.lost)))) ∧
      (s.notices = [] → exec .fetchNotice s = .next
        ({ s.leaving rest with lost := false }.reply q (.ok (.fetched none false s.lost))))) ∧
    ((q.role = 2 ∨ (q.role = 3 ∧ s.tenants.has q.tenant = false)) →
      exec .fetchNotice s = .next (s.answered rest q (.refused .notPermitted))) ∧
    (∀ (u : State) (b : NoticeBody), u.mask.enables b.cls = true → 64 ≤ u.notices.length → (u.notify b).lost = true)

/-- R185, whole: SET NOTICE MASK; its last clause is the next notice's. -/
def Obligations.NoticeMaskIsWritten : Prop :=
  ∀ (s : State) (q : Request) (rest : List Request) (set clear : Byte), s.Turn .setNoticeMask q rest →
    q.body = [set, clear] →
    (q.role ≠ 0 → exec .setNoticeMask s = .next (s.answered rest q (.refused .notPermitted))) ∧
    (q.role = 0 → (64 ≤ set.toNat ∨ 64 ≤ clear.toNat) →
      exec .setNoticeMask s = .next (s.answered rest q (.refused .outOfRange))) ∧
    (q.role = 0 → set.toNat < 64 → clear.toNat < 64 →
      ∃ m : Mask, exec .setNoticeMask s =
          .next ({ s.leaving rest with mask := m }.reply q (.ok (.masks s.mask m))) ∧
        m.job = ((s.mask.job || set.getLsbD 0) && !clear.getLsbD 0) ∧
        m.quota = ((s.mask.quota || set.getLsbD 1) && !clear.getLsbD 1) ∧
        m.station = ((s.mask.station || set.getLsbD 2) && !clear.getLsbD 2) ∧
        m.supply = ((s.mask.supply || set.getLsbD 3) && !clear.getLsbD 3) ∧
        m.callout = ((s.mask.callout || set.getLsbD 4) && !clear.getLsbD 4) ∧
        m.clock = ((s.mask.clock || set.getLsbD 5) && !clear.getLsbD 5)) ∧
    (∀ (u : State) (b : NoticeBody), u.mask.enables b.cls = false → u.notify b = u)

/-! ### Restarts -/

/-- RESTART JOBS empties the store and every queue and command list, lets no reservation stand and keeps everything
else; RESTART ALL leaves every record at its power-on value, keeps the rate, and discards the requests behind it
(R188 with R20, R44, R65, R85, R109, R128; assumption 14 for what of TXD and RXD goes on, assumption 23
for the polls awaited). -/
def Obligations.RestartsClearWhatTheyName : Prop :=
  ∀ (s : State) (q : Request) (rest : List Request), s.Turn .restart q rest → q.role = 0 →
    (q.body = [0#8] → ∃ t : State, exec .restartJobs s = .next (t.reply q (.ok (.restarted .jobs))) ∧
      t.jobs = [] ∧
      (s.jobs.Sorted → s.generations.Sorted → ∀ slot, t.generation slot =
        if s.jobs.has slot then (s.generation slot + 1) % 256 else s.generation slot) ∧
      (∀ n, t.users.fetch n = (s.users.fetch n).map (fun u =>
        { u with account := { u.account with reserved := 0 }, jobCount := 0, owned := [] })) ∧
      (∀ n, t.tenants.fetch n = (s.tenants.fetch n).map (fun x =>
        { x with account := { x.account with reserved := 0 } })) ∧
      (∀ n, t.stations.fetch n = (s.stations.fetch n).map (fun x => { x with queue := [] })) ∧
      (∀ n, t.links.fetch n = (s.links.fetch n).map (fun l => { l with commands := [], held := [] })) ∧
      (∀ r, t.risers.item r = { s.risers.item r with
        awaited := (s.risers.item r).awaited.map (fun p => { p with command := none }) }) ∧
      t = { s.leaving rest with
        jobs := t.jobs, generations := t.generations, users := t.users, tenants := t.tenants,
        stations := t.stations, links := t.links, risers := t.risers }) ∧
    (q.body = [1#8] → exec .restartAll s = .next ({ State.reset with
      rate := s.rate, rx := s.rx, overflow := s.overflow, txd := s.txd, replies := s.replies
      choices := s.choices, pending := s.pending }.reply q (.ok (.restarted .all))))

/-! ### Tenants, users and accounts -/

/-- An accepted PUT TENANT writes every field it carries and keeps, or takes the default of, every other, of the
tenant it names and of no other record (R10, R1). -/
def Obligations.PutTenantWritesCarriedFields : Prop :=
  ∀ (s : State) (q : Request) (rest : List Request) (n m : Nat) (old new : Tenant),
    s.Turn .putTenant q rest → n = q.field 0 1 → m = q.field 1 2 →
    authorise .putTenant q [s.bindTenant n] s = .ok () →
    (q.role ≠ 0 → s.tenants.has n = true ∧ ∀ i ∈ [0, 1, 2, 7, 8, 9], m.testBit i = false) →
    n < 32 → m < 8192 → (tenantChangeOf q).valid s.partitions = true →
    old = (s.tenants.fetch n).getD {} → s.tenantMayBecome n old new = true →
    new = { old with
      quotaMode := if m.testBit 0 then modeOf (q.field 3 1) else old.quotaMode
      allowance := if m.testBit 1 then q.field 4 4 else old.allowance
      grace := if m.testBit 2 then q.field 8 4 else old.grace
      warnPercent := if m.testBit 3 then q.field 12 1 else old.warnPercent
      jobLimit := if m.testBit 4 then q.field 13 1 else old.jobLimit
      releaseDepth := if m.testBit 5 then q.field 14 1 else old.releaseDepth
      holdMinutes := if m.testBit 6 then q.field 15 2 else old.holdMinutes
      partition := if m.testBit 7 then q.field 17 1 else old.partition
      suppliesMode := if m.testBit 8 then modeOf (q.field 18 1) else old.suppliesMode
      suppliesAllowance := if m.testBit 9 then q.field 19 2 else old.suppliesAllowance
      leadCover := if m.testBit 10 then q.field 21 1 else old.leadCover
      floorPercent := if m.testBit 11 then q.field 22 1 else old.floorPercent
      commitWindow := if m.testBit 12 then q.field 23 1 else old.commitWindow } →
    ∃ (ts : Table Tenant) (b : ReplyBody),
      exec .putTenant s = .next ({ s.leaving rest with tenants := ts }.reply q (.ok b)) ∧
      ts.fetch n = some new ∧ ∀ k, k ≠ n → ts.fetch k = s.tenants.fetch k

/-- GET TENANT, GET USER and FIND BADGE answer with the record, its remaining and its counts, and change nothing
(R12, R18, R28, R35). -/
def Obligations.TableReadsAnswerAndChangeNothing : Prop :=
  (∀ (s : State) (q : Request) (rest : List Request) (n : Nat) (t : Tenant),
    s.Turn .getTenant q rest → n = q.field 0 1 → authorise .getTenant q [s.bindTenant n] s = .ok () → n < 32 →
    s.tenants.fetch n = some t →
    exec .getTenant s = .next (s.answered rest q (.ok (.tenant t
      (if t.quotaMode = Mode.limited then
        some ((t.allowance : Int) + t.grace - t.account.used - t.account.reserved) else none)
      (s.users.filter (fun p => p.2.tenant = n)).length
      (s.stations.filter (fun p => p.2.owner = n)).length)))) ∧
  (∀ (s : State) (q : Request) (rest : List Request) (n : Nat) (u : User),
    s.Turn .getUser q rest → n = q.field 0 2 → authorise .getUser q [s.bindUser n] s = .ok () → n < 4096 →
    s.users.fetch n = some u →
    exec .getUser s = .next (s.answered rest q (.ok (.user u
      (if u.quotaMode = Mode.limited then
        some ((u.allowance : Int) + u.grace - u.account.used - u.account.reserved) else none)
      (u.allowance * (s.tenantOf u.tenant).warnPercent / 100))))) ∧
  (∀ (s : State) (q : Request) (rest : List Request) (n : Nat) (u : User),
    s.Turn .findBadge q rest → authorise .findBadge q [s.bindBadge (q.field 0 4)] s = .ok () →
    q.field 0 4 ≠ 0 → s.users.find? (fun p => p.2.badge = q.field 0 4) = some (n, u) →
    exec .findBadge s = .next (s.answered rest q (.ok (.userNumber n))))

/-- An accepted REMOVE TENANT makes the tenant absent and takes its number out of every admitted set (R13, R3). -/
def Obligations.RemoveTenantLeavesNoTrace : Prop :=
  ∀ (s : State) (q : Request) (rest : List Request) (n : Nat),
    s.Turn .removeTenant q rest → q.role = 0 → n = q.field 0 1 → n < 32 → n ≠ 0 →
    s.tenants.Sorted → s.tenants.has n = true →
    (∀ p ∈ s.users, p.2.tenant ≠ n) → (∀ p ∈ s.stations, p.2.owner ≠ n) → (∀ r ∈ s.reorders, r.tenant ≠ n) →
    ∃ (ts : Table Tenant) (xs : Table Station),
      exec .removeTenant s =
        .next ({ s.leaving rest with tenants := ts, stations := xs }.reply q (.ok .empty)) ∧
      ts.fetch n = none ∧ (∀ k, k ≠ n → ts.fetch k = s.tenants.fetch k) ∧
      (∀ st, xs.fetch st = (s.stations.fetch st).map (fun x =>
        { x with admitted := x.admitted.filter (fun t => t ≠ n) }))

/-- An accepted ENROL USER fills the lowest-numbered empty record, the fields not carried taking their defaults
(R14, R4). -/
def Obligations.EnrolUserFillsLowestEmptyRecord : Prop :=
  ∀ (s : State) (q : Request) (rest : List Request) (n badge t m : Nat),
    s.Turn .enrolUser q rest → badge = q.field 0 4 → t = q.field 4 1 → m = q.field 5 1 →
    authorise .enrolUser q [.tenant t] s = .ok () → s.users.Sorted →
    badge ≠ 0 → t < 32 → m < 16 → s.tenants.has t = true →
    (m.testBit 0 = true → q.field 6 1 ≤ 1) → (m.testBit 1 = true → q.field 7 4 ≤ 100000000) →
    (m.testBit 2 = true → q.field 11 3 ≤ 1000000) → (m.testBit 3 = true → q.field 14 1 ≤ 1) →
    (∀ p ∈ s.users, p.2.badge ≠ badge) →
    n < 4096 → s.users.has n = false → (∀ k, k < n → s.users.has k = true) →
    ∃ us : Table User,
      exec .enrolUser s = .next ({ s.leaving rest with users := us }.reply q (.ok (.userNumber n))) ∧
      us.fetch n = some
        { badge := badge, tenant := t, state := .active
          quotaMode := if m.testBit 0 then modeOf (q.field 6 1) else .unlimited
          allowance := if m.testBit 1 then q.field 7 4 else 0
          grace := if m.testBit 2 then q.field 11 3 else 0
          colourPermitted := if m.testBit 3 then flagOf (q.field 14 1) else true
          account := {}, jobCount := 0, submitSeq := 0, owned := [] } ∧
      ∀ k, k ≠ n → us.fetch k = s.users.fetch k

/-- An accepted AMEND USER writes every field it carries and keeps every other (R15, R5). -/
def Obligations.AmendUserWritesCarriedFields : Prop :=
  ∀ (s : State) (q : Request) (rest : List Request) (n m : Nat) (u : User),
    s.Turn .amendUser q rest → n = q.field 0 2 → m = q.field 2 1 →
    authorise .amendUser q
      (s.bindUser n :: (if m.testBit 1 then [.tenant (q.field 7 1)] else [])) s = .ok () →
    n < 4096 → m < 64 → s.users.fetch n = some u →
    (m.testBit 0 = true → q.field 3 4 ≠ 0 ∧ ∀ p ∈ s.users, p.2.badge = q.field 3 4 → p.1 = n) →
    (m.testBit 1 = true → q.field 7 1 < 32 ∧ s.tenants.has (q.field 7 1) = true ∧
      (q.field 7 1 = u.tenant ∨ u.jobCount = 0)) →
    (m.testBit 2 = true → q.field 8 1 ≤ 1) → (m.testBit 3 = true → q.field 9 4 ≤ 100000000) →
    (m.testBit 4 = true → q.field 13 3 ≤ 1000000) → (m.testBit 5 = true → q.field 16 1 ≤ 1) →
    ∃ (us : Table User) (b : ReplyBody),
      exec .amendUser s = .next ({ s.leaving rest with users := us }.reply q (.ok b)) ∧
      us.fetch n = some { u with
        badge := if m.testBit 0 then q.field 3 4 else u.badge
        tenant := if m.testBit 1 then q.field 7 1 else u.tenant
        quotaMode := if m.testBit 2 then modeOf (q.field 8 1) else u.quotaMode
        allowance := if m.testBit 3 then q.field 9 4 else u.allowance
        grace := if m.testBit 4 then q.field 13 3 else u.grace
        colourPermitted := if m.testBit 5 then flagOf (q.field 16 1) else u.colourPermitted } ∧
      ∀ k, k ≠ n → us.fetch k = s.users.fetch k

/-- SUSPEND USER and REINSTATE USER write the state of the user named and nothing else (R16). -/
def Obligations.SuspendAndReinstateWriteState : Prop :=
  (∀ (s : State) (q : Request) (rest : List Request) (n : Nat),
    s.Turn .suspendUser q rest → n = q.field 0 2 → authorise .suspendUser q [s.bindUser n] s = .ok () →
    n < 4096 → s.users.has n = true →
    ∃ us : Table User, exec .suspendUser s = .next ({ s.leaving rest with users := us }.reply q (.ok .empty)) ∧
      us.fetch n = (s.users.fetch n).map (fun u => { u with state := .suspended }) ∧
      ∀ k, k ≠ n → us.fetch k = s.users.fetch k) ∧
  (∀ (s : State) (q : Request) (rest : List Request) (n : Nat),
    s.Turn .reinstateUser q rest → n = q.field 0 2 → authorise .reinstateUser q [s.bindUser n] s = .ok () →
    n < 4096 → s.users.has n = true →
    ∃ us : Table User, exec .reinstateUser s = .next ({ s.leaving rest with users := us }.reply q (.ok .empty)) ∧
      us.fetch n = (s.users.fetch n).map (fun u => { u with state := .active }) ∧
      ∀ k, k ≠ n → us.fetch k = s.users.fetch k)

/-- An accepted REMOVE USER empties the record and deletes the user's jobs, none of which is released; every other
user's record and every job not owned stay, and each owned handle stops naming a job (R17, R61, R48). -/
def Obligations.RemoveUserDeletesUnreleasedJobs : Prop :=
  ∀ (s : State) (q : Request) (rest : List Request) (n : Nat) (u : User),
    s.Turn .removeUser q rest → n = q.field 0 2 → authorise .removeUser q [s.bindUser n] s = .ok () →
    n < 4096 → s.users.fetch n = some u → s.users.Sorted → s.jobs.Sorted →
    (∀ h ∈ u.owned, ∃ j, s.jobNamed h = some j ∧ j.handle = h ∧ j.owner = n ∧
      (j.state = .receiving ∨ j.state = .held)) →
    ∃ t : State, exec .removeUser s = .next (t.reply q (.ok (.jobsDeleted u.owned.length))) ∧
      t.users.fetch n = none ∧ (∀ k, k ≠ n → t.users.fetch k = s.users.fetch k) ∧
      (∀ h ∈ u.owned, t.jobs.fetch (h / 256) = none ∧ t.jobNamed h = none) ∧
      (∀ slot, (∀ h ∈ u.owned, h / 256 ≠ slot) → t.jobs.fetch slot = s.jobs.fetch slot) ∧
      t = { s.leaving rest with users := t.users, jobs := t.jobs, generations := t.generations
                                notices := t.notices, lost := t.lost }

/-- An accepted ADJUST ACCOUNT adds the signed delta to used, clamped at 0 and at 2,000,000,000, runs the warn and
stop checks, and leaves reserved and every other account as they were (R35 to R39). -/
def Obligations.AdjustAccountClampsAndChecks : Prop :=
  (∀ (s : State) (q : Request) (rest : List Request) (n used w : Nat) (d : Int) (u : User),
    s.Turn .adjustAccount q rest → q.field 0 1 = 0 → n = q.field 1 2 → n < 4096 → d = q.signedField 3 →
    -2000000000 ≤ d → d ≤ 2000000000 → authorise .adjustAccount q [s.bindUser n] s = .ok () →
    s.users.fetch n = some u → (used : Int) = max 0 (min 2000000000 ((u.account.used : Int) + d)) →
    w = u.allowance * (s.tenantOf u.tenant).warnPercent / 100 →
    ∃ (us : Table User) (ns : List Notice) (l sat : Bool),
      exec .adjustAccount s = .next ({ s.leaving rest with users := us, notices := ns, lost := l }.reply q
        (.ok (.adjusted u.account.used used u.account.reserved sat
          (if u.quotaMode = Mode.limited then
            some ((u.allowance : Int) + u.grace - used - u.account.reserved) else none)))) ∧
      sat = (u.account.saturated || decide (2000000000 < (u.account.used : Int) + d)) ∧
      us.fetch n = some { u with account :=
        { used := used, reserved := u.account.reserved, saturated := sat
          warned := u.account.warned ||
            (decide (u.quotaMode = Mode.limited) && decide (u.account.used < w) && decide (w ≤ used))
          stopped := u.account.stopped ||
            (decide (u.quotaMode = Mode.limited) && decide (u.allowance + u.grace ≤ used)) } } ∧
      ∀ k, k ≠ n → us.fetch k = s.users.fetch k) ∧
  (∀ (s : State) (q : Request) (rest : List Request) (n used w : Nat) (d : Int) (t : Tenant),
    s.Turn .adjustAccount q rest → q.role = 0 → q.field 0 1 = 1 → n = q.field 1 2 → n < 32 →
    d = q.signedField 3 → -2000000000 ≤ d → d ≤ 2000000000 →
    s.tenants.fetch n = some t → (used : Int) = max 0 (min 2000000000 ((t.account.used : Int) + d)) →
    w = t.allowance * t.warnPercent / 100 →
    ∃ (ts : Table Tenant) (ns : List Notice) (l sat : Bool),
      exec .adjustAccount s = .next ({ s.leaving rest with tenants := ts, notices := ns, lost := l }.reply q
        (.ok (.adjusted t.account.used used t.account.reserved sat
          (if t.quotaMode = Mode.limited then
            some ((t.allowance : Int) + t.grace - used - t.account.reserved) else none)))) ∧
      sat = (t.account.saturated || decide (2000000000 < (t.account.used : Int) + d)) ∧
      ts.fetch n = some { t with account :=
        { used := used, reserved := t.account.reserved, saturated := sat
          warned := t.account.warned ||
            (decide (t.quotaMode = Mode.limited) && decide (t.account.used < w) && decide (w ≤ used))
          stopped := t.account.stopped ||
            (decide (t.quotaMode = Mode.limited) && decide (t.allowance + t.grace ≤ used)) } } ∧
      ∀ k, k ≠ n → ts.fetch k = s.tenants.fetch k)

/-- The settings that one request writes whole: SET RATES (R22), SET PARTITIONS (R46), SET RELEASE TIMING (R95) and
SET CALLOUT POLICY (R164); nothing else changes. -/
def Obligations.SettingsAreWrittenWhole : Prop :=
  (∀ (s : State) (q : Request) (rest : List Request) (a b c d e f g h i : Byte), s.Turn .setRates q rest →
    q.role = 0 → q.body = [a, b, c, d, e, f, g, h, i] →
    a.toNat ≤ b.toNat → d.toNat ≤ e.toNat → g.toNat ≤ h.toNat →
    exec .setRates s = .next ({ s.leaving rest with rates :=
      ⟨⟨a.toNat, b.toNat, c.toNat⟩, ⟨d.toNat, e.toNat, f.toNat⟩, ⟨g.toNat, h.toNat, i.toNat⟩⟩ }.reply q
        (.ok .empty))) ∧
  (∀ (s : State) (q : Request) (rest : List Request) (p : Byte), s.Turn .setPartitions q rest →
    q.role = 0 → q.body = [p] → (p.toNat = 1 ∨ p.toNat = 2 ∨ p.toNat = 4 ∨ p.toNat = 8) →
    (∀ t ∈ s.tenants, t.2.partition < p.toNat) → s.jobs = [] →
    exec .setPartitions s = .next ({ s.leaving rest with partitions := p.toNat }.reply q (.ok .empty))) ∧
  (∀ (s : State) (q : Request) (rest : List Request) (a b : Byte), s.Turn .setReleaseTiming q rest →
    q.role = 0 → q.body = [a, b] → 1 ≤ a.toNat → a.toNat ≤ 120 → 1 ≤ b.toNat → b.toNat ≤ 240 →
    exec .setReleaseTiming s =
      .next ({ s.leaving rest with startWindow := a.toNat, abandonWindow := b.toNat }.reply q
        (.ok (.timing a.toNat b.toNat)))) ∧
  (∀ (s : State) (q : Request) (rest : List Request) (m : Nat) (p : Policy), s.Turn .setCalloutPolicy q rest →
    (q.role = 0 ∨ q.role = 1) → m = q.field 0 2 → m < 512 →
    (∀ i, i < 6 → m.testBit i = true → q.field (2 + i) 1 ≤ 240) →
    (∀ i, i < 3 → m.testBit (6 + i) = true → 1 ≤ q.field (8 + 2 * i) 2 ∧ q.field (8 + 2 * i) 2 ≤ 1440) →
    p = { jam := if m.testBit 0 then q.field 2 1 else s.policy.jam
          door := if m.testBit 1 then q.field 3 1 else s.policy.door
          paper := if m.testBit 2 then q.field 4 1 else s.policy.paper
          toner := if m.testBit 3 then q.field 5 1 else s.policy.toner
          service := if m.testBit 4 then q.field 6 1 else s.policy.service
          silent := if m.testBit 5 then q.field 7 1 else s.policy.silent
          t1 := if m.testBit 6 then q.field 8 2 else s.policy.t1
          t2 := if m.testBit 7 then q.field 10 2 else s.policy.t2
          t3 := if m.testBit 8 then q.field 12 2 else s.policy.t3 } →
    exec .setCalloutPolicy s = .next ({ s.leaving rest with policy := p }.reply q (.ok (.policy p))))

/-! ### The held-job store -/

/-- HOLD JOB looks at the home offset, then at the alternate offset and the six behind it, and places the job in the
first free of the eight slots, with its record filled and its owner's list, job count and submit sequence moved; with
all eight occupied it is refused STORE_FULL (R52 to R55, R47). -/
def Obligations.HoldJobTakesFirstFreeLook : Prop :=
  ∀ (s : State) (q : Request) (rest : List Request) (owner z : Nat) (u : User) (look : Nat → Nat),
    s.Turn .holdJob q rest → owner = q.field 0 2 → authorise .holdJob q [s.bindUser owner] s = .ok () →
    owner < 4096 → q.field 6 1 ≤ 1 → 1 ≤ q.field 7 2 → q.field 7 2 ≤ 9999 → 1 ≤ q.field 9 1 →
    q.field 9 1 ≤ 99 → (q.field 10 1 = 1 ∨ q.field 10 1 = 2 ∨ q.field 10 1 = 4) → q.field 11 1 < 8 →
    q.field 12 1 ≤ 2 → s.users.fetch owner = some u → u.jobCount < (s.tenantOf u.tenant).jobLimit →
    z = 1024 / s.partitions →
    (∀ k, look k = (s.tenantOf u.tenant).partition * z +
      (if k = 0 then (owner * 31 + u.submitSeq) % z
       else (((owner * 31 + u.submitSeq) % z + z / 2) % z + (k - 1)) % z)) →
    ((∀ k, k < 8 → s.jobs.has (look k) = true) →
      exec .holdJob s = .next (s.answered rest q (.refused .storeFull))) ∧
    (∀ (i slot : Nat) (j : Job), i < 8 → (∀ k, k < i → s.jobs.has (look k) = true) → slot = look i →
      s.jobs.has slot = false → s.generation slot < 256 →
      j = { handle := slot * 256 + s.generation slot
            owner := owner
            tenant := u.tenant
            descriptor :=
              { pages := q.field 7 2, copies := q.field 9 1, nUp := q.field 10 1
                duplex := (q.field 11 1).testBit 0
                colour := (q.field 11 1).testBit 1 && u.colourPermitted
                sizeClass := if q.field 12 1 = 0 then .s else if q.field 12 1 = 1 then .l else .e
                fallback := (q.field 11 1).testBit 2 }
            spoolRef := q.field 2 4
            submitted := s.clock
            holdDeadline := min (s.clock + (s.tenantOf u.tenant).holdMinutes) 4294967295
            state := if q.field 6 1 = 1 then .held else .receiving
            committed := decide (q.field 6 1 = 1) } →
      ∃ (js : Table Job) (us : Table User),
        exec .holdJob s = .next ({ s.leaving rest with jobs := js, users := us }.reply q
          (.ok (.jobHeld j.handle (slot * 64 + s.generation slot % 64) j.holdDeadline
            ((q.field 11 1).testBit 1 && !u.colourPermitted)))) ∧
        js.fetch slot = some j ∧ (∀ k, k ≠ slot → js.fetch k = s.jobs.fetch k) ∧
        us.fetch owner = some { u with
          owned := u.owned ++ [j.handle], jobCount := u.jobCount + 1, submitSeq := (u.submitSeq + 1) % 256 } ∧
        (∀ k, k ≠ owner → us.fetch k = s.users.fetch k))

/-- COMMIT SPOOL moves a RECEIVING job to HELD, lets a QUEUED job's entry become the send candidate, and changes
nothing of any other job (R56). -/
def Obligations.CommitSpoolFollowsTheJobState : Prop :=
  ∀ (s : State) (q : Request) (rest : List Request) (h : Nat) (j : Job),
    s.Turn .commitSpool q rest → h = q.field 0 3 → authorise .commitSpool q [s.bindJob h] s = .ok () →
    h < 262144 → s.jobNamed h = some j → j.handle = h →
    (j.state = .receiving → ∃ js : Table Job,
      exec .commitSpool s = .next ({ s.leaving rest with jobs := js }.reply q (.ok .empty)) ∧
      js.fetch (h / 256) = some { j with committed := true, state := .held } ∧
      ∀ k, k ≠ h / 256 → js.fetch k = s.jobs.fetch k) ∧
    ((j.state = .held ∨ j.state = .printing ∨ (j.state = .queued ∧ j.committed = true)) →
      exec .commitSpool s = .next (s.answered rest q (.ok .empty))) ∧
    (∀ (c : Charging) (x : Station), j.state = .queued → j.committed = false → j.charging = some c →
      s.stations.fetch c.station = some x →
      ∃ (js : Table Job) (xs : Table Station),
        exec .commitSpool s = .next
          (({ s.leaving rest with jobs := js, stations := xs }.sendCheck c.station).reply q (.ok .empty)) ∧
        js.fetch (h / 256) = some { j with committed := true } ∧
        (∀ k, k ≠ h / 256 → js.fetch k = s.jobs.fetch k) ∧
        xs.fetch c.station = some { x with
          queue := x.queue.map (fun e => if e.handle = h then { e with commitDeadline := none } else e) } ∧
        ∀ k, k ≠ c.station → xs.fetch k = s.stations.fetch k)

/-- CANCEL JOB deletes a job that has not been sent, its reservation released and JOB DELETED queued, asks the station
of a sent job to withdraw it, and says OK to a second cancel; deleting frees the slot, advances its generation and
takes the handle from its owner (R57, R58, R61). -/
def Obligations.CancelJobTakesOutOrWithdraws : Prop :=
  (∀ (s : State) (j : Job), s.jobs.Sorted → s.generations.Sorted →
    let t := s.deleteJob j
    t.jobs.fetch (j.handle / 256) = none ∧ t.jobNamed j.handle = none ∧
    t.generation (j.handle / 256) = (s.generation (j.handle / 256) + 1) % 256 ∧
    t.users.fetch j.owner = (s.users.fetch j.owner).map (fun u =>
      { u with owned := u.owned.erase j.handle, jobCount := u.jobCount - 1 }) ∧
    (∀ k, k ≠ j.handle / 256 → t.jobs.fetch k = s.jobs.fetch k ∧ t.generation k = s.generation k) ∧
    (∀ k, k ≠ j.owner → t.users.fetch k = s.users.fetch k) ∧
    t = { s with jobs := t.jobs, users := t.users, generations := t.generations }) ∧
  (∀ (s : State) (q : Request) (rest : List Request) (h : Nat) (j : Job),
    s.Turn .cancelJob q rest → h = q.field 0 3 → authorise .cancelJob q [s.bindJob h] s = .ok () →
    h < 262144 → s.jobNamed h = some j → j.handle = h →
    (j.cancelRequested = true → exec .cancelJob s = .next (s.answered rest q (.ok .empty))) ∧
    (j.cancelRequested = false → j.charging = none →
      exec .cancelJob s = .next ((((s.leaving rest).deleteJob j).notify
        (.jobDeleted h j.owner j.spoolRef .cancel)).reply q (.ok .empty))) ∧
    (∀ (c : Charging) (x : Station), j.cancelRequested = false → j.charging = some c →
      s.stations.fetch c.station = some x →
      ((∀ e ∈ x.queue, e.handle = h → e.sub = .waiting) →
        exec .cancelJob s = .next (((((((s.leaving rest).removeEntry c.station h).unreserve j.owner j.tenant
          c.reservation).deleteJob j).notify (.jobDeleted h j.owner j.spoolRef .cancel)).sendCheck
            c.station).reply q (.ok .empty))) ∧
      ((∃ e ∈ x.queue, e.handle = h ∧ e.sub = .sent) →
        ∃ (js : Table Job) (ls : Table Link),
          exec .cancelJob s = .next ({ s.leaving rest with jobs := js, links := ls }.reply q (.accepted .empty)) ∧
          js.fetch (h / 256) = some { j with cancelRequested := true } ∧
          (∀ k, k ≠ h / 256 → js.fetch k = s.jobs.fetch k) ∧
          ls.fetch c.station = (s.links.fetch c.station).map
            (fun l => l.hand (.withdraw (h / 256 * 64 + h % 256 % 64))) ∧
          ∀ k, k ≠ c.station → ls.fetch k = s.links.fetch k)))

/-- SPOOL FAULT deletes a job in any state: a sent one is withdrawn first unless its cancel did so, its entry and
reservation go without settlement, and JOB FAILED is queued (R59). -/
def Obligations.SpoolFaultDeletesInAnyState : Prop :=
  ∀ (s : State) (q : Request) (rest : List Request) (h : Nat) (j : Job),
    s.Turn .spoolFault q rest → h = q.field 0 3 → authorise .spoolFault q [s.bindJob h] s = .ok () →
    h < 262144 → s.jobNamed h = some j → j.handle = h →
    (j.charging = none → exec .spoolFault s = .next ((((s.leaving rest).deleteJob j).notify
      (.jobFailed h j.owner j.spoolRef j.state)).reply q (.ok .empty))) ∧
    (∀ (c : Charging) (x : Station) (w : State), j.charging = some c → s.stations.fetch c.station = some x →
      w = (if (∃ e ∈ x.queue, e.handle = h ∧ e.sub = .sent) ∧ j.cancelRequested = false then
          (s.leaving rest).handCommand c.station (.withdraw (h / 256 * 64 + h % 256 % 64))
        else s.leaving rest) →
      exec .spoolFault s = .next ((((((w.removeEntry c.station h).unreserve j.owner j.tenant
        c.reservation).deleteJob j).notify (.jobFailed h j.owner j.spoolRef j.state)).sendCheck
          c.station).reply q (.ok .empty)))

/-- GET JOB answers with the job's record and, when it is queued, its entry; LIST JOBS with up to 16 handles and
states from the owner list after the skip count; neither changes anything (R62, R63). -/
def Obligations.StoreReadsChangeNothing : Prop :=
  (∀ (s : State) (q : Request) (rest : List Request) (h : Nat) (j : Job),
    s.Turn .getJob q rest → h = q.field 0 3 → authorise .getJob q [s.bindJob h] s = .ok () →
    h < 262144 → s.jobNamed h = some j → j.handle = h →
    (j.charging = none → exec .getJob s = .next (s.answered rest q (.ok (.job j none)))) ∧
    (∀ (c : Charging) (x : Station) (e : Entry), j.charging = some c → s.stations.fetch c.station = some x →
      x.queue.find? (fun e => e.handle = h) = some e →
      exec .getJob s = .next (s.answered rest q (.ok (.job j (some e)))))) ∧
  (∀ (s : State) (q : Request) (rest : List Request) (n skip : Nat) (u : User),
    s.Turn .listJobs q rest → n = q.field 0 2 → skip = q.field 2 1 →
    authorise .listJobs q [s.bindUser n] s = .ok () → n < 4096 → skip ≤ 31 → s.users.fetch n = some u →
    u.jobCount = u.owned.length → (∀ h ∈ u.owned, (s.jobNamed h).isSome = true) →
    ∃ given : List (Nat × JobState),
      exec .listJobs s = .next (s.answered rest q (.ok (.jobs u.jobCount given (u.jobCount - (skip + 16))))) ∧
      given.map (·.1) = (u.owned.drop skip).take 16 ∧
      ∀ p ∈ given, (s.jobNamed p.1).map (·.state) = some p.2)

/-! ### Release -/

/-- The send check sends the oldest WAITING entry whose job is committed, when its station is sendable: the entry goes
SENT and to the front with its start deadline, EXPECT is handed to the link and STREAM JOB queued; a station that is
not sendable or has no candidate is left as it is (R93). -/
def Obligations.SendCheckSendsOldestCommitted : Prop :=
  ∀ (s : State) (st : Nat) (x : Station), s.stations.fetch st = some x →
    (((x.state ≠ .inService ∧ x.state ≠ .degraded) ∨ x.paused = true ∨ (∃ e ∈ x.queue, e.sub = .sent) ∨
      (∀ e ∈ x.queue, ∀ j, s.jobNamed e.handle = some j → j.committed = false)) → s.sendCheck st = s) ∧
    (∀ (front back : List Entry) (e : Entry) (j : Job) (c : Charging) (l : Link),
      (x.state = .inService ∨ x.state = .degraded) → x.paused = false → x.queue = front ++ e :: back →
      (∀ f ∈ x.queue, f.sub = .waiting) →
      (∀ f ∈ front, ∀ k, s.jobNamed f.handle = some k → k.committed = false) →
      (∀ f ∈ front ++ back, f.handle ≠ e.handle) →
      s.jobNamed e.handle = some j → j.handle = e.handle → j.committed = true → j.charging = some c →
      s.links.fetch st = some l →
      ∃ (xs : Table Station) (ls : Table Link) (ns : List Notice) (lost : Bool),
        s.sendCheck st = { s with stations := xs, links := ls, notices := ns, lost := lost } ∧
        xs.fetch st = some { x with
          queue := { e with sub := .sent, startDeadline := some (min (s.clock + s.startWindow) 4294967295) } ::
            (front ++ back) } ∧
        (∀ k, k ≠ st → xs.fetch k = s.stations.fetch k) ∧
        ls.fetch st = some (l.hand (.expect (e.handle / 256 * 64 + e.handle % 256 % 64) j.descriptor.pages
          j.descriptor.copies j.descriptor.nUp c.duplexEffective (j.descriptor.colour && !c.fallback)
          j.descriptor.sizeClass)) ∧
        (∀ k, k ≠ st → ls.fetch k = s.links.fetch k) ∧
        (s.mask.job = false → ns = s.notices ∧ lost = s.lost) ∧
        (s.mask.job = true → s.notices.length < 64 → lost = s.lost ∧ ns = s.notices ++
          [⟨.job, s.clock, .streamJob e.handle (e.handle / 256 * 64 + e.handle % 256 % 64) j.spoolRef st
            c.fallback c.duplexEffective⟩]) ∧
        (s.mask.job = true → 64 ≤ s.notices.length → lost = true ∧ ns = s.notices))

/-- A candidate is judged by media, colour, charge, fit and room, in that order, and the first that applies decides;
the estimate is that of the sides, impressions and sheets at the rates and surcharge that hold, and no surcharge holds
for a job of tenant 0, of the station's owner, or at a shared station, whose owner is tenant 0 (R23, R24, R30, R88). -/
def Obligations.CandidatesAreJudgedInOrder : Prop :=
  ∀ (s : State) (st : Nat) (x : Station) (u : User) (j : Job) (d : Descriptor) (t : Tenant) (r : ClassRates)
    (c : Charging) (fallback duplex userFits tenantFits : Bool) (sides impressions sheets rate u' e : Nat),
    d = j.descriptor → s.tenants.fetch j.tenant = some t → x.state ≠ .probation → x.queue.length ≤ 2 ^ x.weight →
    fallback = (d.colour && (!x.colour || decide (x.state = .degraded))) →
    duplex = (d.duplex && x.duplex) →
    sides = (d.pages + d.nUp - 1) / d.nUp → impressions = sides * d.copies →
    sheets = (if duplex = true then (sides + 1) / 2 else sides) * d.copies →
    r = (if d.sizeClass = .s then s.rates.s else if d.sizeClass = .l then s.rates.l else s.rates.e) →
    rate = (if d.colour = true ∧ fallback = false then r.colour else r.mono) →
    u' = (if j.tenant = 0 ∨ x.owner = 0 ∨ j.tenant = x.owner then 0 else x.surcharge) →
    e = ((impressions * rate + sheets * r.sheet) * (100 + u') + 99) / 100 →
    c = { station := st, reservation := e, monoRate := r.mono, colourRate := rate, sheetRate := r.sheet
          surcharge := u', fallback := fallback, duplexEffective := duplex } →
    (userFits = true ↔ e = 0 ∨ (u.account.reserved + e ≤ 2000000000 ∧ (u.quotaMode = .unlimited ∨
      (e : Int) ≤ (u.allowance : Int) + u.grace - u.account.used - u.account.reserved))) →
    (tenantFits = true ↔ e = 0 ∨ (t.account.reserved + e ≤ 2000000000 ∧ (t.quotaMode = .unlimited ∨
      (e : Int) ≤ (t.allowance : Int) + t.grace - t.account.used - t.account.reserved))) →
    s.judge st x u j =
      if x.sizes.contains d.sizeClass = false then (.skip .media, none)
      else if fallback = true ∧ d.fallback = false then (.skip .colour, none)
      else if userFits = false then (.skip .userQuota, some c)
      else if tenantFits = false then (.skip .tenantQuota, some c)
      else if x.queue.length = 2 ^ x.weight then (.skip .queueFull, some c)
      else if fallback = true then (.releaseFallback, some c)
      else (.release, some c)

/-- Releasing a candidate raises both accounts' reserved by the estimate, makes the job QUEUED with its charging
stored, appends a WAITING entry with a commit deadline where the job is uncommitted, and reports STATION BUSY when the
depth reaches the mid-water mark; nothing else changes (R89, R30, R71). -/
def Obligations.ReleaseReservesAndQueues : Prop :=
  ∀ (s : State) (st : Nat) (x : Station) (j : Job) (c : Charging) (u : User) (t : Tenant),
    s.stations.fetch st = some x → s.jobNamed j.handle = some j → s.users.fetch j.owner = some u →
    s.tenants.fetch j.tenant = some t →
    ∃ (ts : Table Tenant) (us : Table User) (js : Table Job) (xs : Table Station) (b : State),
      s.releaseJob st x j c = { s with
        tenants := ts, users := us, jobs := js, stations := xs, notices := b.notices, lost := b.lost } ∧
      us.fetch j.owner = some { u with
        account := { u.account with reserved := u.account.reserved + c.reservation } } ∧
      (∀ k, k ≠ j.owner → us.fetch k = s.users.fetch k) ∧
      ts.fetch j.tenant = some { t with
        account := { t.account with reserved := t.account.reserved + c.reservation } } ∧
      (∀ k, k ≠ j.tenant → ts.fetch k = s.tenants.fetch k) ∧
      js.fetch (j.handle / 256) = some { j with state := .queued, charging := some c } ∧
      (∀ k, k ≠ j.handle / 256 → js.fetch k = s.jobs.fetch k) ∧
      xs.fetch st = some { x with
        queue := x.queue ++
          [{ handle := j.handle, sub := .waiting, released := s.clock
             commitDeadline :=
               if j.committed = true then none else some (min (s.clock + t.commitWindow) 4294967295)
             startDeadline := none, abandonDeadline := none, holdOver := false }] } ∧
      (∀ k, k ≠ st → xs.fetch k = s.stations.fetch k) ∧
      b = if x.queue.length + 1 = x.midWater then s.notify (.stationBusy st (x.queue.length + 1) x.capacity) else s

/-- A new BADGE is a presentation at its station.  The early ends hand over their SHOW alone, in the order of R86 and
R87; a presentation with candidates examines them oldest first, each against what the earlier ones left, stops at the
first that finds the queue full, hands over the SHOW that counts them, with a suggestion when the first skip is for a
full queue, and then the send check runs (R5, R86 to R91). -/
def Obligations.BadgeIsPresentedAtItsStation : Prop :=
  (∀ (s a : State) (h : ReplyHeader) (number : BitVec 32) (p : AwaitedPoll) (l : Link) (x : Station),
    s.Heard h p l → l.accepted ≠ some h.seq → a = s.acceptEvent h p l →
    a.stations.fetch (stationOf h) = some x →
    exec (.badge h number) s = .next (a.presentBadge (stationOf h) number.toNat)) ∧
  (∀ (s : State) (st badge : Nat) (x : Station), s.stations.fetch st = some x →
    ((badge = 0 ∨ ∀ p ∈ s.users, p.2.badge ≠ badge) →
      s.presentBadge st badge = s.handShow st { result := .notEnrolled }) ∧
    (∀ (n : Nat) (u : User), badge ≠ 0 → s.users.find? (fun p => p.2.badge = badge) = some (n, u) →
      (u.state = .suspended → s.presentBadge st badge = s.handShow st { result := .suspended }) ∧
      (u.state = .active → x.state ≠ .inService → x.state ≠ .degraded →
        ∃ sug : Option Suggestion,
          s.presentBadge st badge = s.handShow st { result := .stationDown, suggestion := sug } ∧
          ((∀ m ∈ x.neighbours, ∀ y, s.stations.fetch m = some y → y.qualifies u.tenant = false) → sug = none) ∧
          (∀ (front back : List Nat) (m : Nat) (y : Station), x.neighbours = front ++ m :: back →
            (∀ k ∈ front, ∀ z, s.stations.fetch k = some z → z.qualifies u.tenant = false) →
            s.stations.fetch m = some y → y.qualifies u.tenant = true → sug = some ⟨m, y.floor⟩)) ∧
      (u.state = .active → (x.state = .inService ∨ x.state = .degraded) → u.tenant ≠ 0 → u.tenant ≠ x.owner →
        u.tenant ∉ x.admitted →
        s.presentBadge st badge = s.handShow st { result := .notPermittedHere }) ∧
      (u.state = .active → (x.state = .inService ∨ x.state = .degraded) →
        (u.tenant = 0 ∨ u.tenant = x.owner ∨ u.tenant ∈ x.admitted) →
        ((∀ k ∈ u.owned, ∀ j, s.jobNamed k = some j → j.state ≠ .receiving ∧ j.state ≠ .held) →
          s.presentBadge st badge = s.handShow st { result := .nothingHeld }) ∧
        (∀ (j : Job) (v : Verdict) (c : Charging), s.users.fetch n = some u → s.candidates u = [j.handle] →
          s.jobNamed j.handle = some j → s.judge st x u j = (v, some c) →
          (v = .release ∨ v = .releaseFallback) →
          s.presentBadge st badge = ((s.releaseJob st x j c).handShow st
            { result := .release, released := 1, fallback := if v = .releaseFallback then 1 else 0 }).sendCheck
              st) ∧
        (∀ (j : Job) (r : SkipReason) (c : Option Charging), s.users.fetch n = some u →
          s.candidates u = [j.handle] → s.jobNamed j.handle = some j → s.judge st x u j = (.skip r, c) →
          r ≠ .queueFull →
          s.presentBadge st badge = (s.handShow st
            { result := .release, skipped := 1, firstSkip := some r }).sendCheck st) ∧
        (∀ (j : Job) (c : Option Charging), s.users.fetch n = some u → s.candidates u = [j.handle] →
          s.jobNamed j.handle = some j → s.judge st x u j = (.skip .queueFull, c) →
          s.presentBadge st badge = (s.handShow st
            { result := .release, skipped := 1, firstSkip := some .queueFull
              suggestion := s.suggest u.tenant x.neighbours }).sendCheck st) ∧
        (∀ (b : State) (xs : List Examined), s.candidates u ≠ [] →
          (b, xs) = State.examine st n (s.candidates u) s →
          s.presentBadge st badge = (b.handShow st (b.releaseShow u.tenant x.neighbours xs)).sendCheck st)))) ∧
  (∀ (s : State) (u : User), s.candidates u =
    (u.owned.filter (fun h => ((s.jobNamed h).map (·.state)) = some .receiving ||
      ((s.jobNamed h).map (·.state)) = some .held)).take (s.tenantOf u.tenant).releaseDepth) ∧
  (∀ (s : State) (st n : Nat), State.examine st n [] s = (s, []) ∧
    ∀ (h : Nat) (hs : List Nat) (x : Station) (u : User) (j : Job), s.stations.fetch st = some x →
      s.users.fetch n = some u → s.jobNamed h = some j →
      (∀ (r : SkipReason) (c : Option Charging), s.judge st x u j = (.skip r, c) → r ≠ .queueFull →
        State.examine st n (h :: hs) s =
          ((State.examine st n hs s).1, ⟨h, .skip r, c.map (·.reservation)⟩ :: (State.examine st n hs s).2)) ∧
      (∀ c : Option Charging, s.judge st x u j = (.skip .queueFull, c) →
        State.examine st n (h :: hs) s = (s, [⟨h, .skip .queueFull, c.map (·.reservation)⟩])) ∧
      (∀ (v : Verdict) (c : Charging) (b : State × List Examined), s.judge st x u j = (v, some c) →
        (v = .release ∨ v = .releaseFallback) → b = State.examine st n hs (s.releaseJob st x j c) →
        State.examine st n (h :: hs) s = (b.1, ⟨h, v, some c.reservation⟩ :: b.2))) ∧
  (∀ (s : State) (t : Nat) (ns : List Nat) (xs : List Examined) (first : Option SkipReason),
    first = xs.findSome? (fun e => match e.verdict with
      | .skip r => some r
      | _ => none) →
    s.releaseShow t ns xs =
      { result := .release
        released := (xs.filter (fun e => e.verdict = .release || e.verdict = .releaseFallback)).length
        fallback := (xs.filter (fun e => e.verdict = .releaseFallback)).length
        skipped := xs.length - (xs.filter (fun e => e.verdict = .release || e.verdict = .releaseFallback)).length
        firstSkip := first
        suggestion := if first = some .queueFull then s.suggest t ns else none }) ∧
  (∀ (s : State) (t : Nat) (ns : List Nat),
    ((∀ m ∈ ns, ∀ y, s.stations.fetch m = some y → y.qualifies t = false) → s.suggest t ns = none) ∧
    (∀ (front back : List Nat) (m : Nat) (y : Station), ns = front ++ m :: back →
      (∀ k ∈ front, ∀ z, s.stations.fetch k = some z → z.qualifies t = false) →
      s.stations.fetch m = some y → y.qualifies t = true → s.suggest t ns = some ⟨m, y.floor⟩) ∧
    ∀ y : Station, y.qualifies t = true ↔ (y.state = .inService ∨ y.state = .degraded) ∧
      (t = 0 ∨ t = y.owner ∨ t ∈ y.admitted) ∧ y.queue.length < 2 ^ y.weight)

/-- PROBE RELEASE answers with the very SHOW that a badge presentation by that user at that station would put at the
front of the station's command list, and changes nothing (R31, R92). -/
def Obligations.ProbeSaysWhatABadgeWouldShow : Prop :=
  ∀ (s : State) (q : Request) (rest : List Request) (n st : Nat) (u : User) (x : Station) (l : Link),
    s.Turn .probeRelease q rest →
    authorise .probeRelease q [s.bindProbed (q.field 0 1) (q.field 1 4)] s = .ok () →
    ((q.field 0 1 = 0 ∧ n = q.field 1 4 ∧ n < 4096 ∧ s.users.fetch n = some u) ∨
      (q.field 0 1 = 1 ∧ q.field 1 4 ≠ 0 ∧ s.users.find? (fun p => p.2.badge = q.field 1 4) = some (n, u))) →
    st = q.field 5 1 → st < 96 → s.stations.fetch st = some x → s.links.fetch st = some l →
    ∃ (sh : Show) (items : List Examined),
      exec .probeRelease s = .next (s.answered rest q (.ok (.probe sh items))) ∧
      (sh.result ≠ .release → items = []) ∧
      (u.badge ≠ 0 → s.users.find? (fun p => p.2.badge = u.badge) = some (n, u) →
        ∃ l', (s.presentBadge st u.badge).links.fetch st = some l' ∧ l'.commands.head? = some (.display sh))

/-! ### The station directory -/

/-- An accepted ADMIT STATION writes the carried fields, draws the capacity, puts the station in its derived state
with STATION STATE, starts its callout delays in class order and hands it over; without room in the pool it is refused
FULL (R75, R70, R153). -/
def Obligations.AdmitPutsStationInDerivedState : Prop :=
  (∀ (s : State) (q : Request) (rest : List Request) (st m w : Nat) (x : Station),
    s.Turn .admitStation q rest → (q.role = 0 ∨ q.role = 1) → st = q.field 0 1 → st < 96 → m = q.field 1 1 →
    m < 16 → s.stations.fetch st = some x → x.state = .probation →
    (m.testBit 0 = true → q.field 2 1 < 32 ∧ s.tenants.has (q.field 2 1) = true) →
    (m.testBit 1 = true → (q.field 3 4).testBit 0 = false ∧
      ∀ t, t < 32 → (q.field 3 4).testBit t = true → s.tenants.has t = true) →
    (m.testBit 2 = true → q.field 7 1 ≤ 200) → (m.testBit 3 = true → 1 ≤ q.field 8 1 ∧ q.field 8 1 ≤ 5) →
    w = (if m.testBit 3 = true then q.field 8 1 else x.weight) →
    (s.freePool < 2 ^ w → exec .admitStation s = .next (s.answered rest q (.refused .full))) ∧
    (2 ^ w ≤ s.freePool → ∃ xs : Table Station,
      exec .admitStation s = .next ((((({ s.leaving rest with stations := xs } : State).notify
        (.stationState st .probation (some (s.derivedState st)) (s.activeClasses st))).startDelays st).handOver
          st).reply q (.ok (.admitted (s.derivedState st) (2 ^ w)))) ∧
      xs.fetch st = some { x with
        state := s.derivedState st
        owner := if m.testBit 0 = true then q.field 2 1 else x.owner
        admitted := if m.testBit 1 = true then (List.range 32).filter (fun t => (q.field 3 4).testBit t)
          else x.admitted
        surcharge := if m.testBit 2 = true then q.field 7 1 else x.surcharge
        weight := w
        midWater := if m.testBit 3 = true then 2 ^ w / 2 else x.midWater } ∧
      ∀ k, k ≠ st → xs.fetch k = s.stations.fetch k)) ∧
  (∀ (s : State) (st : Nat), s.startDelays st =
    [FaultClass.jam, .door, .paper, .toner, .service, .silent].foldl (State.startDelay st) s) ∧
  (∀ (s : State) (st : Nat) (c : FaultClass),
    ((∀ f d, s.faults.fetch (st * 8 + classCode c) = some f → f.link ≠ .waiting d) → State.startDelay st s c = s) ∧
    ∀ f d, s.faults.fetch (st * 8 + classCode c) = some f → f.link = .waiting d →
      ∃ fs : Table FaultEntry, (∀ k, k ≠ st * 8 + classCode c → fs.fetch k = s.faults.fetch k) ∧
        (c = .toner → (∀ col, f.colours.contains col = true → s.covered st col = true) →
          State.startDelay st s c = { s with faults := fs } ∧
          fs.fetch (st * 8 + classCode c) = some { f with link := .suppressed }) ∧
        ((c = .toner → ∃ col, f.colours.contains col = true ∧ s.covered st col = false) →
          (s.policy.delay c = 0 → State.startDelay st s c = s.fallDue st c) ∧
          (0 < s.policy.delay c → State.startDelay st s c = { s with faults := fs } ∧
            fs.fetch (st * 8 + classCode c) = some { f with
              link := .waiting (some (min (s.clock + s.policy.delay c) 4294967295)) })))

/-- PARK STATION returns every WAITING entry and leaves the queue empty, is refused BUSY with a SENT entry and
WRONG_STATE in PROBATION; UNPARK STATION puts a parked station in its derived state and hands it over; either changes
nothing of a station that already is where it would go (R76, R77).  A station handed over IN SERVICE or DEGRADED loses
its abandon deadlines and hold-over flags, DEGRADED also adjusts its WAITING colour entries, and then the send check
runs; OUT OF SERVICE its WAITING entries are held over while every blocking fault's clear window runs, and else
returned FAULT, and its SENT entry gets an abandon deadline unless it carries one (R103, R104, R106, R107). -/
def Obligations.ParkAndUnparkMoveTheStation : Prop :=
  (∀ (s : State) (q : Request) (rest : List Request) (st : Nat) (x : Station),
    s.Turn .parkStation q rest → (q.role = 0 ∨ q.role = 1) → st = q.field 0 1 → st < 96 → s.Canonical →
    s.stations.fetch st = some x →
    (x.state = .probation → exec .parkStation s = .next (s.answered rest q (.refused .wrongState))) ∧
    (x.state = .parked → exec .parkStation s = .next (s.answered rest q (.ok (.parked 0)))) ∧
    (x.state ≠ .probation → x.state ≠ .parked → (∃ e ∈ x.queue, e.sub = .sent) →
      exec .parkStation s = .next (s.answered rest q (.refused .busy))) ∧
    (x.state ≠ .probation → x.state ≠ .parked → (∀ e ∈ x.queue, e.sub = .waiting) →
      ∃ (xs : Table Station) (t : State) (y : Station),
        exec .parkStation s = .next (t.reply q (.ok (.parked x.queue.length))) ∧
        t = (({ s.leaving rest with stations := xs } : State).notify
          (.stationState st x.state (some .parked) (s.activeClasses st))).returnWaiting st (fun _ => true) .parked ∧
        xs.fetch st = some { x with state := .parked } ∧ (∀ k, k ≠ st → xs.fetch k = s.stations.fetch k) ∧
        t.stations.fetch st = some y ∧ y.state = .parked ∧ y.queue = [])) ∧
  (∀ (s : State) (q : Request) (rest : List Request) (st : Nat) (x : Station),
    s.Turn .unparkStation q rest → (q.role = 0 ∨ q.role = 1) → st = q.field 0 1 → st < 96 →
    s.stations.fetch st = some x →
    (x.state = .probation → exec .unparkStation s = .next (s.answered rest q (.refused .wrongState))) ∧
    (x.state ≠ .probation → x.state ≠ .parked →
      exec .unparkStation s = .next (s.answered rest q (.ok (.unparked x.state)))) ∧
    (x.state = .parked → ∃ xs : Table Station,
      exec .unparkStation s = .next (((({ s.leaving rest with stations := xs } : State).notify
        (.stationState st .parked (some (s.derivedState st)) (s.activeClasses st))).handOver st).reply q
          (.ok (.unparked (s.derivedState st)))) ∧
      xs.fetch st = some { x with state := s.derivedState st } ∧
      ∀ k, k ≠ st → xs.fetch k = s.stations.fetch k)) ∧
  (∀ (s : State) (st m : Nat) (x : Station) (waiting : List Nat), s.stations.fetch st = some x →
    waiting = (x.queue.filter (fun e => e.sub = .waiting)).map (·.handle) →
    m = min (s.clock + s.abandonWindow) 4294967295 →
    ((x.state = .probation ∨ x.state = .parked) → s.handOver st = s) ∧
    ((x.state = .inService ∨ x.state = .degraded) → ∃ xs : Table Station,
      xs.fetch st = some { x with
        queue := x.queue.map (fun e =>
          if e.sub = .sent then { e with abandonDeadline := none } else { e with holdOver := false }) } ∧
      (∀ k, k ≠ st → xs.fetch k = s.stations.fetch k) ∧
      (x.state = .inService → s.handOver st = ({ s with stations := xs } : State).sendCheck st) ∧
      (x.state = .degraded → s.handOver st =
        (waiting.foldl (State.adjustColour st) { s with stations := xs }).sendCheck st)) ∧
    (x.state = .outOfService →
      (∀ f ∈ s.activeFaults st, f.cls ≠ .toner ∨ f.colours.k = true →
        (f.cls = .jam ∨ f.cls = .door ∨ f.cls = .paper) ∧ ∃ d, f.link = .waiting d) →
      ∃ xs : Table Station, s.handOver st = { s with stations := xs } ∧
        xs.fetch st = some { x with
          queue := x.queue.map (fun e =>
            if e.sub = .sent then { e with abandonDeadline := some (e.abandonDeadline.getD m) }
            else { e with holdOver := true }) } ∧
        ∀ k, k ≠ st → xs.fetch k = s.stations.fetch k) ∧
    (∀ b : State, x.state = .outOfService →
      (∃ f ∈ s.activeFaults st, (f.cls ≠ .toner ∨ f.colours.k = true) ∧
        ((f.cls ≠ .jam ∧ f.cls ≠ .door ∧ f.cls ≠ .paper) ∨ ∀ d, f.link ≠ .waiting d)) →
      b = waiting.foldl (State.returnEntry st .fault) s → b.clock = s.clock ∧ b.abandonWindow = s.abandonWindow ∧
      ∃ xs : Table Station, s.handOver st = { b with stations := xs } ∧
        xs.fetch st = (b.stations.fetch st).map (fun y => { y with
          queue := y.queue.map (fun e =>
            if e.sub = .sent then
              { e with abandonDeadline := some (e.abandonDeadline.getD m) }
            else e) }) ∧
        ∀ k, k ≠ st → xs.fetch k = b.stations.fetch k)) ∧
  (∀ (s : State) (st : Nat) (reason : ReturnReason),
    (∀ (x : Station) (p : Entry → Bool), s.stations.fetch st = some x → s.returnWaiting st p reason =
      ((x.queue.filter (fun e => e.sub = .waiting && p e)).map (·.handle)).foldl (State.returnEntry st reason) s) ∧
    ∀ (h : Nat) (j : Job), s.jobNamed h = some j → State.returnEntry st reason s h = s.sendBack st j
      (.jobReturned j.handle j.owner j.spoolRef st (if j.committed then .held else .receiving) reason))

/-- An accepted SET STATION writes every field it carries, clamps the mid-water mark to the capacity, and answers with
the record; where no capability is lost or gained nothing else changes (R78, R79).  A gain of colour makes the C, M and
Y records and asks for levels; a loss takes C, M and Y from the TONER fault, cancels their reorders, takes their
records out, and recomputes each WAITING colour job to mono with JOB FALLBACK or returns it COLOUR; a loss of size
classes returns the WAITING jobs of those classes MEDIA; then the send check runs (R26, R79, R103, R107, R129;
assumption 2 for the order of the cancelled reorders, assumption 19 for two changes at once). -/
def Obligations.SetStationWritesCarriedFields : Prop :=
  (∀ (s : State) (q : Request) (rest : List Request) (st m w : Nat) (x x' : Station) (neighbours : List Nat),
    s.Turn .setStation q rest → (q.role = 0 ∨ q.role = 1) → st = q.field 0 1 → st < 96 → m = q.field 1 2 →
    m < 1024 → s.stations.fetch st = some x →
    (m.testBit 0 = true ∨ m.testBit 1 = true → q.field 3 1 < 4) →
    (m.testBit 2 = true → 1 ≤ q.field 4 1 ∧ q.field 4 1 ≤ 7) →
    (m.testBit 3 = true → q.field 5 1 < 32 ∧ s.tenants.has (q.field 5 1) = true) →
    (m.testBit 4 = true → (q.field 6 4).testBit 0 = false ∧
      ∀ t, t < 32 → (q.field 6 4).testBit t = true → s.tenants.has t = true) →
    (m.testBit 5 = true → q.field 10 1 ≤ 200) → (m.testBit 6 = true → q.field 11 1 ≤ 127) →
    neighbours = [q.field 13 1, q.field 14 1, q.field 15 1, q.field 16 1].take (q.field 12 1) →
    (m.testBit 7 = true → q.field 12 1 ≤ 4 ∧ (∀ n ∈ neighbours, n < 96 ∧ n ≠ st) ∧ neighbours.Nodup) →
    (m.testBit 8 = true → 1 ≤ q.field 17 1 ∧ q.field 17 1 ≤ 5) → (m.testBit 9 = true → q.field 18 1 ≠ 0) →
    (m.testBit 3 = true ∨ m.testBit 4 = true ∨ m.testBit 5 = true ∨ m.testBit 8 = true → x.state = .parked) →
    w = (if m.testBit 8 = true then q.field 17 1 else x.weight) →
    (m.testBit 8 = true → 2 ^ w ≤ x.capacity + s.freePool) →
    x' = { x with
      colour := if m.testBit 0 = true then (q.field 3 1).testBit 0 else x.colour
      duplex := if m.testBit 1 = true then (q.field 3 1).testBit 1 else x.duplex
      sizes := if m.testBit 2 = true then
          ⟨(q.field 4 1).testBit 0, (q.field 4 1).testBit 1, (q.field 4 1).testBit 2⟩ else x.sizes
      owner := if m.testBit 3 = true then q.field 5 1 else x.owner
      admitted := if m.testBit 4 = true then (List.range 32).filter (fun t => (q.field 6 4).testBit t)
        else x.admitted
      surcharge := if m.testBit 5 = true then q.field 10 1 else x.surcharge
      floor := if m.testBit 6 = true then q.field 11 1 else x.floor
      neighbours := if m.testBit 7 = true then neighbours else x.neighbours
      weight := w
      midWater := if m.testBit 9 = true then min (q.field 18 1) (2 ^ w)
        else if m.testBit 8 = true then 2 ^ w / 2 else x.midWater } →
    ∃ (xs : Table Station) (t : State),
      exec .setStation s = .next (t.reply q (.ok (t.stationReply st))) ∧
      t = ({ s.leaving rest with stations := xs } : State).capabilitiesChanged st x x' ∧
      xs.fetch st = some x' ∧ (∀ k, k ≠ st → xs.fetch k = s.stations.fetch k) ∧
      (x'.colour = x.colour → (∀ z, x.sizes.contains z = true → x'.sizes.contains z = true) →
        t = { s.leaving rest with stations := xs })) ∧
  (∀ (s : State) (st : Nat) (old new : Station) (lost : SizeSet) (waiting : Station → List Nat),
    lost = ⟨old.sizes.s && !new.sizes.s, old.sizes.l && !new.sizes.l, old.sizes.e && !new.sizes.e⟩ →
    (∀ y, waiting y = (y.queue.filter (fun e => e.sub = .waiting)).map (·.handle)) →
    (old.colour = new.colour →
      (lost = ⟨false, false, false⟩ → s.capabilitiesChanged st old new = s) ∧
      ∀ y, lost ≠ ⟨false, false, false⟩ → s.stations.fetch st = some y → s.capabilitiesChanged st old new =
        ((waiting y).foldl (State.adjustEntry st false lost) s).sendCheck st) ∧
    (old.colour = false → new.colour = true → ∃ cs : Table Consumable,
      (∀ col : Toner, col ≠ .k → cs.fetch (st * 4 + tonerCode col) = some
        { level := none, yield := 0, sinceChange := 0, interval := 0, rate := 0, rateLearnt := false
          cover := 999, reorder := none }) ∧
      (∀ k, (k / 4 ≠ st ∨ k = st * 4) → cs.fetch k = s.consumables.fetch k) ∧
      (lost = ⟨false, false, false⟩ → s.capabilitiesChanged st old new =
        ({ s with consumables := cs } : State).handCommand st .queryLevels) ∧
      ∀ y, lost ≠ ⟨false, false, false⟩ → s.stations.fetch st = some y → s.capabilitiesChanged st old new =
        ((waiting y).foldl (State.adjustEntry st false lost)
          (({ s with consumables := cs } : State).handCommand st .queryLevels)).sendCheck st) ∧
    (∀ c : State, old.colour = true → new.colour = false → s.Canonical →
      c = s.clearFault st .toner ⟨false, true, true, true⟩ →
      ∃ (rs : List Reorder) (a : State) (cs : Table Consumable),
        rs.Perm (c.reorders.filter (fun r => r.station = st && r.colour ≠ .k)) ∧
        a = rs.foldl State.cancelOne { c with choices := c.choices + rs.length } ∧
        (∀ col : Toner, col ≠ .k → cs.fetch (st * 4 + tonerCode col) = none) ∧
        (∀ k, (k / 4 ≠ st ∨ k = st * 4) → cs.fetch k = a.consumables.fetch k) ∧
        ∀ y, a.stations.fetch st = some y → s.capabilitiesChanged st old new =
          ((waiting y).foldl (State.adjustEntry st true lost) { a with consumables := cs }).sendCheck st)) ∧
  (∀ (s b : State) (st h : Nat) (colourLost : Bool) (lost : SizeSet) (j : Job),
    b = (if colourLost = true then State.adjustColour st s h else s) → b.jobNamed h = some j → j.handle = h →
    ((j.charging = none ∨ lost.contains j.descriptor.sizeClass = false) →
      State.adjustEntry st colourLost lost s h = b) ∧
    (j.charging ≠ none → lost.contains j.descriptor.sizeClass = true →
      State.adjustEntry st colourLost lost s h = b.sendBack st j (.jobReturned h j.owner j.spoolRef st
        (if j.committed then .held else .receiving) .media))) ∧
  (∀ (s : State) (st h sides impressions sheets e : Nat) (j : Job) (d : Descriptor) (c : Charging),
    s.jobNamed h = some j → j.handle = h → j.charging = some c → d = j.descriptor →
    sides = (d.pages + d.nUp - 1) / d.nUp → impressions = sides * d.copies →
    sheets = (if c.duplexEffective = true then (sides + 1) / 2 else sides) * d.copies →
    e = ((impressions * c.monoRate + sheets * c.sheetRate) * (100 + c.surcharge) + 99) / 100 →
    ((d.colour = false ∨ c.fallback = true) → State.adjustColour st s h = s) ∧
    (d.colour = true → c.fallback = false → d.fallback = false → State.adjustColour st s h =
      s.sendBack st j (.jobReturned h j.owner j.spoolRef st (if j.committed then .held else .receiving) .colour)) ∧
    (d.colour = true → c.fallback = false → d.fallback = true →
      ∃ (us : Table User) (ts : Table Tenant) (js : Table Job),
        State.adjustColour st s h = ({ s with users := us, tenants := ts, jobs := js } : State).notify
          (.jobFallback h j.owner st c.reservation e) ∧
        js.fetch (h / 256) = some { j with
          charging := some { c with reservation := e, colourRate := c.monoRate, fallback := true } } ∧
        (∀ k, k ≠ h / 256 → js.fetch k = s.jobs.fetch k) ∧
        (∀ k, us.fetch k = (s.users.fetch k).map (fun u => if k = j.owner then { u with
          account := { u.account with reserved := u.account.reserved - (c.reservation - e) } } else u)) ∧
        ∀ k, ts.fetch k = (s.tenants.fetch k).map (fun t => if k = j.tenant then { t with
          account := { t.account with reserved := t.account.reserved - (c.reservation - e) } } else t)))

/-- An accepted RETIRE STATION leaves nothing of the station anywhere: no record, link, consumable, fault, callout,
pending fault, reorder or neighbour number; every other station keeps its record otherwise, and no job, user or clock
is touched (R82). -/
def Obligations.RetireLeavesNothingOfTheStation : Prop :=
  ∀ (s : State) (q : Request) (rest : List Request) (st : Nat) (x : Station),
    s.Turn .retireStation q rest → (q.role = 0 ∨ q.role = 1) → st = q.field 0 1 → st < 96 → s.Canonical →
    s.stations.fetch st = some x → (x.state = .parked ∨ x.state = .probation) →
    ∃ t : State, exec .retireStation s = .next (t.reply q (.ok .empty)) ∧
      t.stations.fetch st = none ∧ t.links.fetch st = none ∧
      (∀ col : Toner, t.consumables.fetch (st * 4 + tonerCode col) = none) ∧
      (∀ c : FaultClass, t.faults.fetch (st * 8 + classCode c) = none) ∧
      (∀ p ∈ t.callouts, p.2.station ≠ st) ∧ (∀ p ∈ t.pendingFaults, p.1 ≠ st) ∧
      (∀ r ∈ t.reorders, r.station ≠ st) ∧
      (∀ k, k ≠ st → t.stations.fetch k =
        (s.stations.fetch k).map (fun y => { y with neighbours := y.neighbours.filter (fun n => n ≠ st) })) ∧
      (∀ k, k ≠ st → t.links.fetch k = s.links.fetch k) ∧
      t.jobs = s.jobs ∧ t.users = s.users ∧ t.clock = s.clock

/-- SWEEP RISER puts the riser's empty places on its sweep list in ascending order, or ends at once when there is
none, and is refused BUSY while a sweep runs; LINK RESET ends a sweep, empties the riser's command lists, clears its
accepted bits and misses, and keeps its silent marks (R124, R126). -/
def Obligations.SweepAndLinkResetActOnOneRiser : Prop :=
  (∀ (s : State) (q : Request) (rest : List Request) (r : Nat) (places : List Nat),
    s.Turn .sweepRiser q rest → (q.role = 0 ∨ q.role = 1) → r = q.field 0 1 → r < 4 →
    places = (List.range' 1 24).filter (fun d => !s.stations.has (r * 24 + (d - 1))) →
    ((s.risers.item r).sweep ≠ none → exec .sweepRiser s = .next (s.answered rest q (.refused .busy))) ∧
    ((s.risers.item r).sweep = none → places = [] → exec .sweepRiser s = .next
      (((s.leaving rest).notify (.sweepDone r 0 0 false)).reply q (.ok (.sweep 0)))) ∧
    ((s.risers.item r).sweep = none → places ≠ [] → ∃ rs : Quad Riser,
      exec .sweepRiser s = .next ({ s.leaving rest with risers := rs }.reply q (.accepted (.sweep places.length))) ∧
      rs.item r = { s.risers.item r with sweep := some { addresses := places, tried := 0, found := 0 } } ∧
      ∀ k, k < 4 → k ≠ r → rs.item k = s.risers.item k)) ∧
  (∀ (s b : State) (q : Request) (rest : List Request) (r burst : Nat),
    s.Turn .linkReset q rest → (q.role = 0 ∨ q.role = 1) → r = q.field 0 1 → r < 4 → burst = q.field 1 1 →
    burst ≤ 4 →
    b = (match (s.risers.item r).sweep with
      | some w => s.notify (.sweepDone r w.tried w.found true)
      | none => s) →
    ∃ (rs : Quad Riser) (ls : Table Link),
      exec .linkReset s = .next ({ s.leaving rest with
          risers := rs, links := ls, notices := b.notices, lost := b.lost }.reply q
        (.ok (.linkReset (rs.item r).burst (s.links.filter (fun p : Nat × Link => p.1 / 24 = r)).length))) ∧
      rs.item r = { s.risers.item r with
        burst := if burst = 0 then (s.risers.item r).burst else burst
        sweep := none
        awaited := (s.risers.item r).awaited.map (fun p => { p with discarded := true }) } ∧
      (∀ k, k < 4 → k ≠ r → rs.item k = s.risers.item k) ∧
      ∀ st, ls.fetch st = (s.links.fetch st).map (fun l =>
        if st / 24 = r then { l with accepted := none, misses := 0, commands := [], held := [] } else l))

/-- GET STATION, GET CONSUMABLE, LIST REORDERS, LIST CALLOUTS and READ INTERVAL answer with what their rules name and
change nothing: among it the colour set of a TONER callout that is not RESOLVED and the fell-due minute of each pending
fault (R83, R144, R165, R176).  The order of a station's fault entries (assumption 33), and that a role 2 request carrying
tenant 0 is answered of the shared stations (assumption 35), are the model's choice. -/
def Obligations.DirectoryReadsChangeNothing : Prop :=
  (∀ (s : State) (q : Request) (rest : List Request) (st : Nat) (x : Station) (l : Link),
    s.Turn .getStation q rest → st = q.field 0 1 → authorise .getStation q [s.bindStation st] s = .ok () →
    st < 96 → s.stations.fetch st = some x → s.links.fetch st = some l →
    exec .getStation s = .next (s.answered rest q (.ok (.station x
      (if x.state = .probation then 0 else 2 ^ x.weight) x.queue.length s.freePool (s.activeClasses st) l.silent
      ((x.queue.take 32).map (fun e => (e.handle, e.sub, e.holdOver))))))) ∧
  (∀ (s : State) (q : Request) (rest : List Request) (st col : Nat) (x : Station) (t : Tenant) (r : Consumable),
    s.Turn .getConsumable q rest → st = q.field 0 1 → col = q.field 1 1 →
    authorise .getConsumable q [s.bindStation st] s = .ok () → st < 96 → col < 4 →
    s.stations.fetch st = some x → s.tenants.fetch x.owner = some t →
    s.consumables.fetch (st * 4 + col) = some r →
    exec .getConsumable s = .next (s.answered rest q (.ok (.consumable r x.owner t.leadCover t.floorPercent
      (r.reorder.bind (fun n => s.reorders.find? (fun o => o.number = n))))))) ∧
  (∀ (s : State) (q : Request) (rest : List Request) (st : Nat),
    s.Turn .listReorders q rest → st = q.field 0 1 → (st < 96 ∨ st = 255) →
    ((q.role = 0 ∨ q.role = 1) → exec .listReorders s = .next (s.answered rest q (.ok (.reorders
      (s.reorders.filter (fun r => st = 255 || r.station = st)) s.reorders.length s.nextReorder)))) ∧
    (∀ x, q.role = 2 → s.tenants.has q.tenant = true → st < 96 → s.stations.fetch st = some x →
      x.owner = q.tenant → exec .listReorders s = .next (s.answered rest q (.ok (.reorders
        (s.reorders.filter (fun r => r.station = st)) s.reorders.length s.nextReorder)))) ∧
    (q.role = 2 → s.tenants.has q.tenant = true → st = 255 →
      exec .listReorders s = .next (s.answered rest q (.ok (.reorders
        (s.reorders.filter (fun r => ((s.stations.fetch r.station).map (·.owner)) = some q.tenant))
        s.reorders.length s.nextReorder))))) ∧
  (∀ (s : State) (q : Request) (rest : List Request) (st : Nat),
    s.Turn .listCallouts q rest → (q.role = 0 ∨ q.role = 1) → st = q.field 0 1 → (st < 96 ∨ st = 255) →
    ∃ (records : List ListedCallout) (pending : List ListedPending),
      exec .listCallouts s = .next (s.answered rest q (.ok (.callouts records s.callouts.length s.nextCallout
        pending (if st = 255 then none else some (s.activeFaults st))))) ∧
      records.map (fun x => (x.number, x.record)) =
        s.callouts.filter (fun p => st = 255 || p.2.station = st) ∧
      (∀ x ∈ records, (x.record.state = .resolved ∨ x.record.cls ≠ .toner) → x.colours = none) ∧
      (∀ x ∈ records, x.record.state ≠ .resolved → x.record.cls = .toner →
        x.colours = (s.faults.fetch (x.record.station * 8 + 4)).map (·.colours)) ∧
      pending.map (fun x => (x.station, x.cls)) = s.pendingFaults ∧
      (∀ x ∈ pending, ∀ f m, s.faults.fetch (x.station * 8 + classCode x.cls) = some f → f.link = .pending m →
        x.fellDue = m)) ∧
  (∀ (s : State) (q : Request) (rest : List Request), s.Turn .readInterval q rest →
    (q.role = 0 ∨ q.role = 1) → exec .readInterval s = .next (s.answered rest q (.ok (.intervals s.counters))))

/-! ### Reorders and callouts -/

/-- APPROVE REORDER moves a DEFERRED reorder into the allowance and counts it; past the allowance role 0 alone may, by
raising an allowance below 1000; PLACE REORDER sets the due minute of a PROPOSED one; CANCEL REORDER takes one off the
list, gives its cartridge back unless it was DEFERRED, and tells the callout manager, as a cancel at a retirement or a
loss of colour does too (R82, R129, R138, R139, R141).  That `authorise` lets a role 2 request carrying tenant 0 pass for
a shared station's reorder is the model's reading (assumption 35). -/
def Obligations.ReordersAreApprovedPlacedAndCancelled : Prop :=
  (∀ (s : State) (q : Request) (rest : List Request) (n : Nat) (r : Reorder) (t : Tenant),
    s.Turn .approveReorder q rest → n = q.field 0 2 → n ≠ 0 →
    authorise .approveReorder q [s.bindReorder n] s = .ok () →
    s.reorders.find? (fun o => o.number = n) = some r → s.tenants.fetch r.tenant = some t →
    (r.state ≠ .deferred → exec .approveReorder s = .next (s.answered rest q (.refused .wrongState))) ∧
    (r.state = .deferred → t.suppliesMode = Mode.limited → t.suppliesAllowance ≤ t.suppliesUsed →
      (q.role ≠ 0 ∨ 1000 ≤ t.suppliesAllowance) →
      exec .approveReorder s = .next (s.answered rest q (.refused .limit))) ∧
    (∀ allowance used, r.state = .deferred →
      ((t.suppliesMode = Mode.unlimited ∨ t.suppliesUsed < t.suppliesAllowance) ∧
          allowance = t.suppliesAllowance ∨
        t.suppliesMode = Mode.limited ∧ t.suppliesAllowance ≤ t.suppliesUsed ∧ q.role = 0 ∧
          t.suppliesAllowance < 1000 ∧ allowance = t.suppliesAllowance + 1) →
      used = min (t.suppliesUsed + 1) 65535 →
      ∃ ts : Table Tenant,
        exec .approveReorder s = .next ((({ s.leaving rest with
            tenants := ts
            reorders := s.reorders.map
              (fun o => if o.number = n then { o with state := .proposed } else o) } : State).notify
          (.reorderProposed n r.station r.colour r.tenant r.cause r.level r.cover used allowance true
            false)).reply q (.ok (.approved { r with state := .proposed } used allowance))) ∧
        ts.fetch r.tenant = some { t with suppliesUsed := used, suppliesAllowance := allowance } ∧
        ∀ k, k ≠ r.tenant → ts.fetch k = s.tenants.fetch k)) ∧
  (∀ (s : State) (q : Request) (rest : List Request) (n minutes : Nat) (r : Reorder),
    s.Turn .placeReorder q rest → n = q.field 0 2 → n ≠ 0 → minutes = q.field 2 2 → 1 ≤ minutes →
    minutes ≤ 43200 → authorise .placeReorder q [s.bindReorder n] s = .ok () →
    s.reorders.find? (fun o => o.number = n) = some r →
    (r.state ≠ .proposed → exec .placeReorder s = .next (s.answered rest q (.refused .wrongState))) ∧
    (r.state = .proposed → exec .placeReorder s = .next ({ s.leaving rest with
      reorders := s.reorders.map (fun o : Reorder => if o.number = n then
        { o with state := .placed, due := some (min (s.clock + minutes) 4294967295) } else o) }.reply q
      (.ok (.placed (min (s.clock + minutes) 4294967295)))))) ∧
  (∀ (s : State) (q : Request) (rest : List Request) (n used : Nat) (r : Reorder) (t : Tenant),
    s.Turn .cancelReorder q rest → n = q.field 0 2 → n ≠ 0 →
    authorise .cancelReorder q [s.bindReorder n] s = .ok () →
    s.reorders.find? (fun o => o.number = n) = some r → s.tenants.fetch r.tenant = some t →
    used = (if r.state = .deferred then t.suppliesUsed else t.suppliesUsed - 1) →
    ∃ (ts : Table Tenant) (cs : Table Consumable),
      exec .cancelReorder s = .next (((({ s.leaving rest with
          tenants := ts, consumables := cs
          reorders := s.reorders.filter (fun o => o.number ≠ n) } : State).notify
        (.reorderCancelled n r.station r.colour r.tenant r.state)).suppressionEnds r.station r.colour).reply q
          (.ok (.cancelled used))) ∧
      ts.fetch r.tenant = some { t with suppliesUsed := used } ∧
      (∀ k, k ≠ r.tenant → ts.fetch k = s.tenants.fetch k) ∧
      cs.fetch (r.station * 4 + tonerCode r.colour) =
        (s.consumables.fetch (r.station * 4 + tonerCode r.colour)).map (fun c => { c with reorder := none }) ∧
      (∀ k, k ≠ r.station * 4 + tonerCode r.colour → cs.fetch k = s.consumables.fetch k) ∧
      (s.leaving rest).cancelOne r = ((({ s.leaving rest with
          tenants := ts, consumables := cs
          reorders := s.reorders.filter (fun o => o.number ≠ n) } : State).notify
        (.reorderCancelled n r.station r.colour r.tenant r.state)).suppressionEnds r.station r.colour))

/-- ACK CALLOUT stops the escalation of an OPEN or STALLED callout; CLOSE CALLOUT takes a RESOLVED one out and gives
its place to the oldest pending fault, whose callout opens at tier 1 under the next number (R156, R160, R162). -/
def Obligations.CalloutsAreAcknowledgedAndClosed : Prop :=
  (∀ (s : State) (q : Request) (rest : List Request) (n : Nat) (x : Callout),
    s.Turn .ackCallout q rest → (q.role = 0 ∨ q.role = 1) → n = q.field 0 2 → n ≠ 0 →
    s.callouts.fetch n = some x →
    (x.state = .resolved → exec .ackCallout s = .next (s.answered rest q (.refused .wrongState))) ∧
    (x.state = .acknowledged →
      exec .ackCallout s = .next (s.answered rest q (.ok (.acknowledged n .acknowledged x.tier)))) ∧
    ((x.state = .opened ∨ x.state = .stalled) → ∃ cs : Table Callout,
      exec .ackCallout s = .next ({ s.leaving rest with callouts := cs }.reply q
        (.ok (.acknowledged n .acknowledged x.tier))) ∧
      cs.fetch n = some { x with state := .acknowledged, deadline := none } ∧
      ∀ k, k ≠ n → cs.fetch k = s.callouts.fetch k)) ∧
  (∀ (s : State) (q : Request) (rest : List Request) (n : Nat) (x : Callout),
    s.Turn .closeCallout q rest → (q.role = 0 ∨ q.role = 1) → n = q.field 0 2 → n ≠ 0 → s.callouts.Sorted →
    s.callouts.fetch n = some x →
    (x.state ≠ .resolved → exec .closeCallout s = .next (s.answered rest q (.refused .wrongState))) ∧
    (x.state = .resolved → s.pendingFaults = [] → ∃ cs : Table Callout,
      exec .closeCallout s = .next ((({ s.leaving rest with callouts := cs } : State).notify
        (.calloutClosed n x.station x.cls x.tier x.recurrence .request)).reply q
          (.ok (.closed (s.callouts.length - 1) none))) ∧
      cs.fetch n = none ∧ ∀ k, k ≠ n → cs.fetch k = s.callouts.fetch k) ∧
    (∀ (st : Nat) (c : FaultClass) (more : List (Nat × FaultClass)), x.state = .resolved →
      s.pendingFaults = (st, c) :: more → s.callouts.has s.nextCallout = false →
      ∃ (t : State) (cs : Table Callout) (fs : Table FaultEntry),
        exec .closeCallout s = .next (t.reply q (.ok (.closed s.callouts.length (some s.nextCallout)))) ∧
        t = { s.leaving rest with
          callouts := cs, faults := fs, pendingFaults := more, notices := t.notices, lost := t.lost
          nextCallout := if s.nextCallout < 65535 then s.nextCallout + 1 else 1 } ∧
        cs.fetch n = none ∧
        cs.fetch s.nextCallout = some
          { station := st, cls := c, tier := 1, state := .opened, opened := s.clock
            deadline := some (min (s.clock + s.policy.t1) 4294967295), recurrence := 0 } ∧
        (∀ k, k ≠ n → k ≠ s.nextCallout → cs.fetch k = s.callouts.fetch k) ∧
        fs.fetch (st * 8 + classCode c) = (s.faults.fetch (st * 8 + classCode c)).map
          (fun f => { f with link := .called s.nextCallout }) ∧
        ∀ k, k ≠ st * 8 + classCode c → fs.fetch k = s.faults.fetch k))

/-! ### The clock and the interval counters -/

/-- SET CLOCK back or to the same value writes the clock alone; set forward, every deadline that the clock has then
reached falls due, each once, in some order (R169, R170; the order is free, assumption 2; each deadline stands once in a
state whose tables are canonical and whose reorders have distinct numbers). -/
def Obligations.SetClockMakesDeadlinesFallDue : Prop :=
  ∀ (s u : State) (q : Request) (rest : List Request) (v : Nat),
    s.Turn .setClock q rest → q.role = 0 → v = q.field 0 4 → u = { s.leaving rest with clock := v } →
    (v ≤ s.clock → exec .setClock s = .next (u.reply q (.ok (.clockSet s.clock v)))) ∧
    (s.clock < v → ∃ ds : List Deadline,
      (s.Canonical → (s.reorders.map (·.number)).Nodup → ds.Nodup) ∧
      exec .setClock s = .next ((ds.foldl State.fallsDue { u with choices := s.choices + ds.length }).reply q
        (.ok (.clockSet s.clock v))) ∧
      (∀ slot, Deadline.hold slot ∈ ds ↔ slot ∈ Table.numbers s.jobs ∧
        ∃ j, s.jobs.fetch slot = some j ∧ j.holdDeadline ≤ v) ∧
      (∀ slot, Deadline.commit slot ∈ ds ↔ slot ∈ Table.numbers s.jobs ∧
        ∃ p, s.entryOfSlot slot = some p ∧ ∃ m, p.2.2.commitDeadline = some m ∧ m ≤ v) ∧
      (∀ slot, Deadline.start slot ∈ ds ↔ slot ∈ Table.numbers s.jobs ∧
        ∃ p, s.entryOfSlot slot = some p ∧ ∃ m, p.2.2.startDeadline = some m ∧ m ≤ v) ∧
      (∀ slot, Deadline.abandon slot ∈ ds ↔ slot ∈ Table.numbers s.jobs ∧
        ∃ p, s.entryOfSlot slot = some p ∧ ∃ m, p.2.2.abandonDeadline = some m ∧ m ≤ v) ∧
      (∀ st c, Deadline.fault st c ∈ ds ↔
        ∃ p ∈ s.faults, p.2.station = st ∧ p.2.cls = c ∧ ∃ m, p.2.link = .waiting (some m) ∧ m ≤ v) ∧
      (∀ n, Deadline.tier n ∈ ds ↔ ∃ p ∈ s.callouts, p.1 = n ∧ ∃ m, p.2.deadline = some m ∧ m ≤ v) ∧
      (∀ n, Deadline.reorder n ∈ ds ↔
        ∃ r ∈ s.reorders, r.number = n ∧ r.overdue = false ∧ ∃ m, r.due = some m ∧ m ≤ v))

/-- SET INTERVAL writes one counter's source, preload and count together; a minute of the timebase raises the clock to
its greatest value at most and takes one unit from each running MINUTES counter, reloading it at 0 (R168, R172, R175;
that the expiry then waits for its own step is assumption 7, and that the deadlines reached do is assumption 10). -/
def Obligations.CountersAreWrittenAndCount : Prop :=
  (∀ (s : State) (q : Request) (rest : List Request) (n source preload : Nat) (c : Counter),
    s.Turn .setInterval q rest → q.role = 0 → n = q.field 0 1 → source = q.field 1 1 → preload = q.field 2 3 →
    n < 4 → source ≤ 1 → preload ≤ 1000000 →
    c = { source := if source = 0 then .minutes else .impressions, preload := preload, count := preload } →
    ∃ cs : Quad Counter,
      exec .setInterval s = .next ({ s.leaving rest with counters := cs }.reply q
        (.ok (.intervalSet (s.counters.item n) c))) ∧
      cs.item n = c ∧ ∀ k, k < 4 → k ≠ n → cs.item k = s.counters.item k) ∧
  (∀ s : State, s.resetHeld = false → ∃ cs : Quad Counter,
    exec .clockAdvance s = .next { s with
      clock := min (s.clock + 1) 4294967295
      counters := cs
      expiries := s.expiries ++ [0, 1, 2, 3].filterMap (fun n =>
        if (s.counters.item n).source = .minutes ∧ (s.counters.item n).preload ≠ 0 ∧
            (s.counters.item n).count ≤ 1 then
          some ⟨n, .minutes, (s.counters.item n).preload⟩
        else none) } ∧
    ∀ n, n < 4 →
      (((s.counters.item n).source = .impressions ∨ (s.counters.item n).preload = 0) →
        cs.item n = s.counters.item n) ∧
      ((s.counters.item n).source = .minutes → (s.counters.item n).preload ≠ 0 →
        cs.item n = { s.counters.item n with
          count := if (s.counters.item n).count ≤ 1 then (s.counters.item n).preload
            else (s.counters.item n).count - 1 }))

/-- An expiry queues INTERVAL EXPIRED and then its owner acts: IC0 rolls over every user account and IC1 every tenant
account, forgiving the allowance and carrying the debt, IC1 then ends the supplies period and promotes DEFERRED
reorders in creation order while their tenants' allowances last, IC2 samples every consumable, evaluates them in
ascending station number and the order K, C, M, Y and then asks for fresh levels, and IC3 repeats CALLOUT STALLED for
every stalled callout (R40 to R42, R133, R142, R143, R159, R174; that the expiry is a step of its own is
assumption 7). -/
def Obligations.ExpiriesActAtTheirOwners : Prop :=
  ∀ (s a : State) (n : Fin 4) (e : Expiry), s.resetHeld = false →
    s.expiries.find? (fun e => e.counter = n.val) = some e →
    a = ({ s with expiries := s.expiries.erase e } : State).notify (.intervalExpired n.val e.source e.preload) →
    (n = 0 → ∃ us : Table User,
      exec (.intervalExpired n) s =
        .next (({ a with users := us } : State).notify (.periodRolled .user s.users.length)) ∧
      ∀ k, us.fetch k = (s.users.fetch k).map (fun u => { u with
        account :=
          { used := if u.quotaMode = Mode.limited then u.account.used - u.allowance else 0
            reserved := u.account.reserved, warned := false, stopped := false, saturated := false } })) ∧
    (n = 1 → ∃ (ts : Table Tenant) (b : State),
      b = ({ a with tenants := ts } : State).notify (.periodRolled .tenant s.tenants.length) ∧
      exec (.intervalExpired n) s = .next b.endSuppliesPeriod ∧
      (∀ k, ts.fetch k = (s.tenants.fetch k).map (fun t => { t with
        account :=
          { used := if t.quotaMode = Mode.limited then t.account.used - t.allowance else 0
            reserved := t.account.reserved, warned := false, stopped := false, saturated := false } })) ∧
      (∃ ps : Table Tenant, (∀ k, ps.fetch k = (ts.fetch k).map (fun t => { t with suppliesUsed := 0 })) ∧
        b.endSuppliesPeriod = s.reorders.foldl State.promoteOne { b with tenants := ps }) ∧
      (∀ (p : State) (r : Reorder) (t : Tenant), p.tenants.fetch r.tenant = some t →
        ((r.state ≠ .deferred ∨ (t.suppliesMode = Mode.limited ∧ t.suppliesAllowance ≤ t.suppliesUsed)) →
          p.promoteOne r = p) ∧
        (r.state = .deferred → (t.suppliesMode = Mode.unlimited ∨ t.suppliesUsed < t.suppliesAllowance) →
          ∃ us : Table Tenant,
            p.promoteOne r = ({ p with
              tenants := us
              reorders := p.reorders.map
                (fun o => if o.number = r.number then { o with state := .proposed } else o) } : State).notify
              (.reorderProposed r.number r.station r.colour r.tenant r.cause r.level r.cover
                (min (t.suppliesUsed + 1) 65535) t.suppliesAllowance false true) ∧
            us.fetch r.tenant = some { t with suppliesUsed := min (t.suppliesUsed + 1) 65535 } ∧
            ∀ k, k ≠ r.tenant → us.fetch k = p.tenants.fetch k)) ∧
      ((∀ r ∈ s.reorders, r.state ≠ .deferred) → b.endSuppliesPeriod = { b with
          tenants := b.endSuppliesPeriod.tenants } ∧
        ∀ k, b.endSuppliesPeriod.tenants.fetch k =
          (ts.fetch k).map (fun t => { t with suppliesUsed := 0 }))) ∧
    (n = 2 → ∃ (cs : Table Consumable) (b : State),
      (∀ k, cs.fetch k = (s.consumables.fetch k).map (fun r => { r with
        rate := if r.rateLearnt = true then (3 * r.rate + r.interval) / 4 else r.interval
        rateLearnt := true, interval := 0 })) ∧
      b = (Table.numbers s.consumables).foldl (fun b k => State.evaluate (k / 4) b
        (if k % 4 = 0 then .k else if k % 4 = 1 then .c else if k % 4 = 2 then .m else .y))
        { a with consumables := cs } ∧
      exec (.intervalExpired n) s = .next (((Table.numbers b.stations).filter (fun st =>
        b.consumables.has (st * 4) || b.consumables.has (st * 4 + 1) || b.consumables.has (st * 4 + 2) ||
          b.consumables.has (st * 4 + 3))).foldl (fun b st => b.handCommand st .queryLevels) b)) ∧
    (n = 3 → exec (.intervalExpired n) s = .next ((s.callouts.filter (fun p => p.2.state = .stalled)).foldl
      (fun b p => b.notify (.calloutStalled p.1 p.2.station
        (((s.stations.fetch p.2.station).map (·.floor)).getD 0) p.2.cls p.2.tier p.2.opened p.2.recurrence true))
      a))

/-! ### The riser links -/

/-- POLL sends the next poll of a riser: the visit's next one, or that of the next address the pass visits, which are
the addresses with a link record that is not silent or whose phase is 0, and those on the sweep list; a silent
station passed over has its phase lowered.  EMPTY_CYCLE is a whole cycle without a visit (R112, R113, R115, R121); that it
is one from address 1 alone, the unvisited rest of a begun cycle being POLL's, is the model's choice (assumption 36). -/
def Obligations.PollVisitsTheNextAddress : Prop :=
  (∀ (s : State) (r d : Nat), s.visits r d = true ↔
    (∃ l, s.links.fetch (r * 24 + (d - 1)) = some l ∧ (l.silent = false ∨ l.phase = 0)) ∨
    (s.links.fetch (r * 24 + (d - 1)) = none ∧ ∃ w, (s.risers.item r).sweep = some w ∧ d ∈ w.addresses)) ∧
  (∀ (s : State) (r : Fin 4) (x : Riser) (l : Link), s.resetHeld = false → x = s.risers.item r.val →
    x.awaited = none → x.again ≠ 0 → s.links.fetch (r.val * 24 + (x.position - 1)) = some l →
    ∃ rs : Quad Riser, exec (.poll r) s = .next { s with risers := rs } ∧
      rs.item r.val = { x with
        again := 0
        awaited := some { drop := x.position, ack := l.accepted, command := l.commands.head?, trial := false
                          made := x.again + 1, discarded := false } } ∧
      ∀ k, k < 4 → k ≠ r.val → rs.item k = s.risers.item k) ∧
  (∀ (s : State) (r : Fin 4) (x : Riser) (d : Nat) (p : AwaitedPoll), s.resetHeld = false →
    x = s.risers.item r.val → x.awaited = none → x.again = 0 → 1 ≤ x.position → x.position ≤ d → d ≤ 24 →
    (∀ k, x.position ≤ k → k < d → s.visits r.val k = false) → s.visits r.val d = true →
    p = (match s.links.fetch (r.val * 24 + (d - 1)) with
      | some l => { drop := d, ack := l.accepted, command := l.commands.head?, trial := false, made := 1
                    discarded := false }
      | none => { drop := d, ack := none, command := none, trial := true, made := 1, discarded := false }) →
    ∃ (rs : Quad Riser) (ls : Table Link),
      exec (.poll r) s = .next { s with risers := rs, links := ls } ∧
      rs.item r.val = { x with position := d, again := 0, awaited := some p } ∧
      (∀ k, k < 4 → k ≠ r.val → rs.item k = s.risers.item k) ∧
      ∀ st, ls.fetch st = (s.links.fetch st).map (fun l =>
        if r.val * 24 + (x.position - 1) ≤ st ∧ st < r.val * 24 + (d - 1) then { l with phase := l.phase - 1 }
        else l)) ∧
  (∀ (s : State) (r : Fin 4), s.resetHeld = false → (s.risers.item r.val).awaited = none →
    (s.risers.item r.val).again = 0 → (s.risers.item r.val).position = 1 →
    (∀ k, 1 ≤ k → k ≤ 24 → s.visits r.val k = false) →
    ∃ ls : Table Link, exec (.emptyCycle r) s = .next { s with links := ls } ∧
      ∀ st, ls.fetch st = (s.links.fetch st).map (fun l =>
        if st / 24 = r.val then { l with phase := l.phase - 1 } else l))

/-- A miss ends the visit and counts; the third in a row marks the station silent with phase 15 and sets its SILENT
fault, and one on a silent station sets the phase to 15 again (assumption 12); a reply of any row that names another
address is a miss, and the reply of a discarded poll counts for nothing (R110, R117, R118, R126). -/
def Obligations.ThirdMissSilencesTheStation : Prop :=
  ∀ (s : State) (r : Fin 4) (x : Riser) (p : AwaitedPoll), s.resetHeld = false → x = s.risers.item r.val →
    x.awaited = some p →
    ∃ rs : Quad Riser,
      rs.item r.val = { x with
        position := if p.drop < 24 then p.drop + 1 else 1, awaited := none, again := 0 } ∧
      (∀ k, k < 4 → k ≠ r.val → rs.item k = s.risers.item k) ∧
      (p.discarded = true → exec (.miss r) s = .next { s with risers := rs }) ∧
      (∀ (l : Link) (st : Nat), p.discarded = false → p.trial = false → st = r.val * 24 + (p.drop - 1) →
        s.links.fetch st = some l → ∃ ls : Table Link,
          (∀ k, k ≠ st → ls.fetch k = s.links.fetch k) ∧
          (l.silent = false → l.misses < 2 →
            exec (.miss r) s = .next { s with risers := rs, links := ls } ∧
            ls.fetch st = some { l with misses := l.misses + 1 }) ∧
          (l.silent = false → 2 ≤ l.misses →
            exec (.miss r) s = .next (({ s with risers := rs, links := ls } : State).setFault st .silent
              ⟨false, false, false, false⟩) ∧
            ls.fetch st = some { l with misses := 3, silent := true, phase := 15 }) ∧
          (l.silent = true →
            exec (.miss r) s = .next { s with risers := rs, links := ls } ∧
            ls.fetch st = some { l with phase := 15 })) ∧
      (∀ h : ReplyHeader, h.riser = r → h.drop ≠ p.drop →
        exec (.idle h) s = exec (.miss r) s ∧ exec (.eventDiscarded h) s = exec (.miss r) s ∧
        (∀ model caps sizes, exec (.hello h model caps sizes) s = exec (.miss r) s) ∧
        (∀ number, exec (.badge h number) s = exec (.miss r) s) ∧
        (∀ token, exec (.jobStart h token) s = exec (.miss r) s) ∧
        (∀ token im ic hs, exec (.jobProgress h token im ic hs) s = exec (.miss r) s ∧
          exec (.jobEnd h token im ic hs) s = exec (.miss r) s ∧
          ∀ reason, exec (.jobAbort h token im ic hs reason) s = exec (.miss r) s) ∧
        (∀ k c m y, exec (.levels h k c m y) s = exec (.miss r) s) ∧
        (∀ cls cs, exec (.faultSet h cls cs) s = exec (.miss r) s ∧
          exec (.faultClear h cls cs) s = exec (.miss r) s) ∧
        exec (.pause h) s = exec (.miss r) s ∧ exec (.resume h) s = exec (.miss r) s)

/-- A sweep trial that brings a good HELLO makes a station record in PROBATION, its consumable records and its link
record, and STATION FOUND; any outcome takes the address off the list, and the last one ends the sweep with SWEEP
DONE (R74, R111, R125, R129).  That the new records' levels are asked for (assumption 8), that SWEEP_TRIAL sends its own
poll where none is awaited (assumption 16), and that a capabilities byte with one of bits 7 to 2 set, a byte of 4 or
above, is out of range and makes no station (assumption 17) are the model's choice. -/
def Obligations.SweepTrialFindsAStation : Prop :=
  (∀ (s : State) (r : Fin 4) (p : AwaitedPoll) (st : Nat), s.resetHeld = false →
    (s.risers.item r.val).awaited = some p → p.trial = true → p.discarded = false →
    st = r.val * 24 + (p.drop - 1) →
    exec (.sweepTrial r .miss) s = .next ((s.endVisit r.val p.drop).countTrial r.val p.drop false) ∧
    exec (.sweepTrial r .other) s = .next ((s.endVisit r.val p.drop).countTrial r.val p.drop false) ∧
    (∀ (seq : Bool) (model : BitVec 16) (caps sizes : Byte),
      ((4 ≤ caps.toNat ∨ sizes.toNat = 0 ∨ 8 ≤ sizes.toNat) →
        exec (.sweepTrial r (.hello seq model caps sizes)) s =
          .next ((s.endVisit r.val p.drop).countTrial r.val p.drop false)) ∧
      (caps.toNat < 4 → sizes.toNat ≠ 0 → sizes.toNat < 8 →
        ∃ (xs : Table Station) (ls : Table Link) (cs : Table Consumable),
          exec (.sweepTrial r (.hello seq model caps sizes)) s =
            .next ((({ s.endVisit r.val p.drop with stations := xs, links := ls, consumables := cs } :
              State).notify (.stationFound st model.toNat (caps.getLsbD 0) (caps.getLsbD 1)
                ⟨sizes.getLsbD 0, sizes.getLsbD 1, sizes.getLsbD 2⟩)).countTrial r.val p.drop true) ∧
          xs.fetch st = some
            { state := .probation, model := model.toNat, colour := caps.getLsbD 0, duplex := caps.getLsbD 1
              sizes := ⟨sizes.getLsbD 0, sizes.getLsbD 1, sizes.getLsbD 2⟩, owner := 0, admitted := []
              surcharge := 0, floor := 0, neighbours := [], weight := 2, midWater := 2, paused := false
              queue := [], lifeMono := 0, lifeColour := 0, lifeSheets := 0 } ∧
          (∀ k, k ≠ st → xs.fetch k = s.stations.fetch k) ∧
          ls.fetch st = some { accepted := some seq, misses := 0, silent := false, phase := 0
                               commands := [.queryLevels], held := [] } ∧
          (∀ k, k ≠ st → ls.fetch k = s.links.fetch k) ∧
          (∀ col : Toner, (col = .k ∨ caps.getLsbD 0 = true) → cs.fetch (st * 4 + tonerCode col) = some
            { level := none, yield := 0, sinceChange := 0, interval := 0, rate := 0, rateLearnt := false
              cover := 999, reorder := none }) ∧
          ∀ k, k / 4 ≠ st → cs.fetch k = s.consumables.fetch k))) ∧
  (∀ (s : State) (r : Fin 4) (p : AwaitedPoll) (reply : TrialReply), s.resetHeld = false →
    (s.risers.item r.val).awaited = none → ((s.nextPoll r.val).risers.item r.val).awaited = some p →
    p.trial = true → exec (.sweepTrial r reply) s = exec (.sweepTrial r reply) (s.nextPoll r.val)) ∧
  (∀ (s : State) (r : Fin 4) (d : Nat) (found : Bool) (w : Sweep), (s.risers.item r.val).sweep = some w →
    ∃ rs : Quad Riser, (∀ k, k < 4 → k ≠ r.val → rs.item k = s.risers.item k) ∧
      (w.addresses.erase d = [] → rs.item r.val = { s.risers.item r.val with sweep := none } ∧
        s.countTrial r.val d found = ({ s with risers := rs } : State).notify
          (.sweepDone r.val (w.tried + 1) (if found = true then w.found + 1 else w.found) false)) ∧
      (w.addresses.erase d ≠ [] → rs.item r.val = { s.risers.item r.val with
          sweep := some ⟨w.addresses.erase d, w.tried + 1, if found = true then w.found + 1 else w.found⟩ } ∧
        s.countTrial r.val d found = { s with risers := rs }))

/-- A good reply clears the misses, takes the command its poll carried off the list when the adapter has taken it, and
keeps the visit going while its event is not IDLE and the burst is not used up; a silent station comes back; IDLE, an
unknown new event and every repeated event do nothing more (R113, R114, R116, R118, R119). -/
def Obligations.RepliesWithoutANewEvent : Prop :=
  ∀ (s : State) (h : ReplyHeader) (p : AwaitedPoll) (l : Link), s.Heard h p l →
    exec (.idle h) s = .next (s.afterReply h p l true) ∧
    (l.accepted ≠ some h.seq → exec (.eventDiscarded h) s = .next (s.acceptEvent h p l)) ∧
    (l.accepted = some h.seq → exec (.eventDiscarded h) s = .next (s.afterReply h p l false) ∧
      (∀ n, exec (.badge h n) s = .next (s.afterReply h p l false)) ∧
      (∀ t, exec (.jobStart h t) s = .next (s.afterReply h p l false)) ∧
      (∀ t a b c, exec (.jobProgress h t a b c) s = .next (s.afterReply h p l false)) ∧
      (∀ t a b c, exec (.jobEnd h t a b c) s = .next (s.afterReply h p l false)) ∧
      (∀ t a b c d, exec (.jobAbort h t a b c d) s = .next (s.afterReply h p l false)) ∧
      (∀ k c m y, exec (.levels h k c m y) s = .next (s.afterReply h p l false)) ∧
      (∀ c k, exec (.faultSet h c k) s = .next (s.afterReply h p l false)) ∧
      (∀ c k, exec (.faultClear h c k) s = .next (s.afterReply h p l false)) ∧
      exec (.pause h) s = .next (s.afterReply h p l false) ∧
      exec (.resume h) s = .next (s.afterReply h p l false)) ∧
    (∀ idle : Bool, ∃ (rs : Quad Riser) (ls : Table Link),
      rs.item h.riser.val = { s.risers.item h.riser.val with
        awaited := none
        position := if idle = false ∧ p.made < (s.risers.item h.riser.val).burst then p.drop
          else if p.drop < 24 then p.drop + 1 else 1
        again := if idle = false ∧ p.made < (s.risers.item h.riser.val).burst then p.made else 0 } ∧
      (∀ k, k < 4 → k ≠ h.riser.val → rs.item k = s.risers.item k) ∧
      (∀ k, k ≠ stationOf h → ls.fetch k = s.links.fetch k) ∧
      (l.silent = false → (p.command = none ∨ h.taken = false) →
        s.afterReply h p l idle = { s with risers := rs, links := ls } ∧
        ls.fetch (stationOf h) = some { l with misses := 0 }) ∧
      (∀ c, l.silent = false → p.command = some c → h.taken = true → l.commands.contains c = true →
        s.afterReply h p l idle = { s with risers := rs, links := ls } ∧
        ls.fetch (stationOf h) = some { l with
          misses := 0, commands := l.commands.erase c ++ l.held.take 1, held := l.held.drop 1 }) ∧
      (l.silent = true → (p.command = none ∨ h.taken = false) →
        s.afterReply h p l idle = ({ s with risers := rs, links := ls } : State).clearFault (stationOf h) .silent
          ⟨false, false, false, false⟩ ∧
        ls.fetch (stationOf h) = some { l with misses := 0, silent := false, phase := 0 }))

/-- HELLO refreshes the model code and the capabilities of its station's record, whatever its sequence bit; PAUSE sets
the paused flag; RESUME clears it and runs the send check; a flag that already stands so changes nothing
(R79, R80, R94, R116).  That a HELLO whose capabilities byte has one of bits 7 to 2 set, a byte of 4 or above, is
accepted and discarded is the model's reading (assumption 17). -/
def Obligations.HelloPauseAndResumeWriteTheStation : Prop :=
  ∀ (s a : State) (h : ReplyHeader) (p : AwaitedPoll) (l : Link) (x : Station), s.Heard h p l →
    a = s.acceptEvent h p l → a.stations.fetch (stationOf h) = some x →
    (∀ (model : BitVec 16) (caps sizes : Byte) (x' : Station), caps.toNat < 4 → sizes.toNat ≠ 0 →
      sizes.toNat < 8 →
      x' = { x with
        model := model.toNat, colour := caps.getLsbD 0, duplex := caps.getLsbD 1
        sizes := ⟨sizes.getLsbD 0, sizes.getLsbD 1, sizes.getLsbD 2⟩ } →
      ∃ xs : Table Station,
        exec (.hello h model caps sizes) s =
          .next (({ a with stations := xs } : State).capabilitiesChanged (stationOf h) x x') ∧
        xs.fetch (stationOf h) = some x' ∧ (∀ k, k ≠ stationOf h → xs.fetch k = a.stations.fetch k) ∧
        (x'.colour = x.colour → (∀ z, x.sizes.contains z = true → x'.sizes.contains z = true) →
          exec (.hello h model caps sizes) s = .next { a with stations := xs })) ∧
    (∀ (model : BitVec 16) (caps sizes : Byte), (4 ≤ caps.toNat ∨ sizes.toNat = 0 ∨ 8 ≤ sizes.toNat) →
      exec (.hello h model caps sizes) s = .next a) ∧
    (l.accepted ≠ some h.seq →
      (∃ xs : Table Station, exec (.pause h) s = .next { a with stations := xs } ∧
        xs.fetch (stationOf h) = some { x with paused := true } ∧
        ∀ k, k ≠ stationOf h → xs.fetch k = a.stations.fetch k) ∧
      (x.paused = false → exec (.resume h) s = .next a) ∧
      (x.paused = true → ∃ xs : Table Station,
        exec (.resume h) s = .next (({ a with stations := xs } : State).sendCheck (stationOf h)) ∧
        xs.fetch (stationOf h) = some { x with paused := false } ∧
        ∀ k, k ≠ stationOf h → xs.fetch k = a.stations.fetch k))

/-! ### Reports from the stations -/

/-- JOB START makes a QUEUED job PRINTING and drops its start deadline; JOB PROGRESS does so too, if the start was
lost, and stores the clamped counts; a report that matches no job changes nothing (R96 to R98, R27). -/
def Obligations.StartAndProgressFollowTheJob : Prop :=
  ∀ (s a : State) (h : ReplyHeader) (token : BitVec 16) (im ic hs : BitVec 24) (p : AwaitedPoll) (l : Link),
    s.Heard h p l → l.accepted ≠ some h.seq → a = s.acceptEvent h p l →
    (∀ (j : Job) (c : Charging) (x : Station), a.Matched (stationOf h) token.toNat j c x →
      (j.state = .queued → ∃ (js jp : Table Job) (xs : Table Station),
        exec (.jobStart h token) s = .next { a with jobs := js, stations := xs } ∧
        exec (.jobProgress h token im ic hs) s = .next { a with jobs := jp, stations := xs } ∧
        js.fetch (token.toNat / 64) = some { j with state := .printing } ∧
        jp.fetch (token.toNat / 64) = some { j with
          state := .printing
          progress := some ⟨min im.toNat 1000000, min ic.toNat 1000000, min hs.toNat 1000000⟩ } ∧
        (∀ k, k ≠ token.toNat / 64 → js.fetch k = a.jobs.fetch k ∧ jp.fetch k = a.jobs.fetch k) ∧
        xs.fetch (stationOf h) = some { x with
          queue := x.queue.map (fun e => if e.handle = j.handle then { e with startDeadline := none } else e) } ∧
        ∀ k, k ≠ stationOf h → xs.fetch k = a.stations.fetch k) ∧
      (j.state = .printing → exec (.jobStart h token) s = .next a ∧ ∃ jp : Table Job,
        exec (.jobProgress h token im ic hs) s = .next { a with jobs := jp } ∧
        jp.fetch (token.toNat / 64) = some { j with
          progress := some ⟨min im.toNat 1000000, min ic.toNat 1000000, min hs.toNat 1000000⟩ } ∧
        ∀ k, k ≠ token.toNat / 64 → jp.fetch k = a.jobs.fetch k)) ∧
    ((a.jobs.fetch (token.toNat / 64) = none ∨ a.generation (token.toNat / 64) % 64 ≠ token.toNat % 64 ∨
      (∃ j c, a.jobs.fetch (token.toNat / 64) = some j ∧ j.charging = some c ∧ c.station ≠ stationOf h) ∨
      (∃ j x, a.jobs.fetch (token.toNat / 64) = some j ∧ a.stations.fetch (stationOf h) = some x ∧
        ∀ e ∈ x.queue, e.handle = j.handle → e.sub = .waiting)) →
      exec (.jobStart h token) s = .next a ∧ exec (.jobProgress h token im ic hs) s = .next a ∧
      exec (.jobEnd h token im ic hs) s = .next a ∧
      ∀ reason, exec (.jobAbort h token im ic hs reason) s = .next a)

/-- JOB END and JOB ABORT end a matching job: both accounts are settled with the charge of the clamped counts, the
user's before the tenant's, each with QUOTA WARN and then QUOTA STOP where its checks fire; JOB DONE is queued; the
counts reach the lifetime counters and the consumables; the entry goes and the job is deleted; the impressions reach the
interval counters; and the send check runs (R27, R33 to R37, R58, R81, R99, R130, R173). -/
def Obligations.EndAndAbortSettleTheJob : Prop :=
  (∀ (s a : State) (h : ReplyHeader) (token : BitVec 16) (im ic hs : BitVec 24) (reason : Byte) (p : AwaitedPoll)
    (l : Link) (j : Job) (c : Charging) (x : Station) (r : AbortReason),
    s.Heard h p l → l.accepted ≠ some h.seq → a = s.acceptEvent h p l →
    a.Matched (stationOf h) token.toNat j c x →
    r = (if reason = 1#8 then .jam else if reason = 2#8 then .door else if reason = 3#8 then .paper
      else if reason = 4#8 then .toner else if reason = 5#8 then .service else if reason = 6#8 then .panel
      else if reason = 7#8 then .withdrawn else .other) →
    exec (.jobEnd h token im ic hs) s = .next (a.endJob (stationOf h) j c ⟨im.toNat, ic.toNat, hs.toNat⟩
      (fun charge n => .jobDone j.handle j.owner j.spoolRef (stationOf h) charge n none c.fallback)) ∧
    exec (.jobAbort h token im ic hs reason) s = .next (a.endJob (stationOf h) j c
      ⟨im.toNat, ic.toNat, hs.toNat⟩
      (fun charge n => .jobDone j.handle j.owner j.spoolRef (stationOf h) charge n (some r) c.fallback))) ∧
  (∀ (s b : State) (st charge : Nat) (j : Job) (c : Charging) (raw n : Counts)
    (notice : Nat → Counts → NoticeBody),
    n = ⟨min raw.mono 1000000, min raw.colour 1000000, min raw.sheets 1000000⟩ →
    charge = ((n.mono * c.monoRate + n.colour * c.colourRate + n.sheets * c.sheetRate) * (100 + c.surcharge) + 99)
      / 100 →
    b = ((((((((s.settleUser j.owner c.reservation charge).settleTenant j.tenant c.reservation charge).notify
      (notice charge n)).addLifetime st n).attribute st n).removeEntry st j.handle).deleteJob j)) →
    s.endJob st j c raw notice =
      ((if j.cancelRequested = true then b.notify (.jobDeleted j.handle j.owner j.spoolRef .cancel)
        else b).takeImpressions (n.mono + n.colour)).sendCheck st) ∧
  (∀ (s : State) (n reservation charge used w : Nat) (u : User), s.users.fetch n = some u →
    used = min (u.account.used + charge) 2000000000 →
    w = u.allowance * (s.tenantOf u.tenant).warnPercent / 100 →
    ∃ us : Table User, s.settleUser n reservation charge = ({ s with users := us } : State).notifyAll
        ((if u.quotaMode = Mode.limited ∧ u.account.warned = false ∧ u.account.used < w ∧ w ≤ used then
            [.quotaWarn .user n used w] else []) ++
          (if u.quotaMode = Mode.limited ∧ u.account.stopped = false ∧ u.allowance + u.grace ≤ used then
            [.quotaStop .user n used (u.allowance + u.grace)] else [])) ∧
      (∀ k, k ≠ n → us.fetch k = s.users.fetch k) ∧
      us.fetch n = some { u with account :=
        { used := used, reserved := u.account.reserved - reservation
          saturated := u.account.saturated || decide (2000000000 < u.account.used + charge)
          warned := u.account.warned ||
            (decide (u.quotaMode = Mode.limited) && decide (u.account.used < w) && decide (w ≤ used))
          stopped := u.account.stopped ||
            (decide (u.quotaMode = Mode.limited) && decide (u.allowance + u.grace ≤ used)) } }) ∧
  (∀ (s : State) (n reservation charge used w : Nat) (t : Tenant), s.tenants.fetch n = some t →
    used = min (t.account.used + charge) 2000000000 → w = t.allowance * t.warnPercent / 100 →
    ∃ ts : Table Tenant, s.settleTenant n reservation charge = ({ s with tenants := ts } : State).notifyAll
        ((if t.quotaMode = Mode.limited ∧ t.account.warned = false ∧ t.account.used < w ∧ w ≤ used then
            [.quotaWarn .tenant n used w] else []) ++
          (if t.quotaMode = Mode.limited ∧ t.account.stopped = false ∧ t.allowance + t.grace ≤ used then
            [.quotaStop .tenant n used (t.allowance + t.grace)] else [])) ∧
      (∀ k, k ≠ n → ts.fetch k = s.tenants.fetch k) ∧
      ts.fetch n = some { t with account :=
        { used := used, reserved := t.account.reserved - reservation
          saturated := t.account.saturated || decide (2000000000 < t.account.used + charge)
          warned := t.account.warned ||
            (decide (t.quotaMode = Mode.limited) && decide (t.account.used < w) && decide (w ≤ used))
          stopped := t.account.stopped ||
            (decide (t.quotaMode = Mode.limited) && decide (t.allowance + t.grace ≤ used)) } }) ∧
  (∀ (s : State) (b c : NoticeBody), s.notifyAll [] = s ∧ s.notifyAll [b] = s.notify b ∧
    s.notifyAll [b, c] = (s.notify b).notify c) ∧
  (∀ (s : State) (st : Nat) (n : Counts) (x : Station), s.stations.fetch st = some x →
    (s.addLifetime st n).stations.fetch st = some { x with
      lifeMono := (x.lifeMono + n.mono) % 4294967296
      lifeColour := (x.lifeColour + n.colour) % 4294967296
      lifeSheets := (x.lifeSheets + n.sheets) % 4294967296 } ∧
    ∀ col, (s.attribute st n).consumables.fetch (st * 4 + tonerCode col) =
      (s.consumables.fetch (st * 4 + tonerCode col)).map (fun r =>
        let gain := if col = .k then n.mono + n.colour else n.colour
        { r with
          sinceChange := min (r.sinceChange + gain) 4294967295
          interval := min (r.interval + gain) 4294967295 })) ∧
  (∀ (s : State) (units : Nat),
    ((∀ k, k < 4 → (s.counters.item k).source = .minutes ∨ (s.counters.item k).preload = 0) →
      s.takeImpressions units = s) ∧
    (∀ k, k < 4 → (s.counters.item k).source = .impressions → (s.counters.item k).preload ≠ 0 →
      (∀ m, m < 4 → m ≠ k → (s.counters.item m).source = .minutes ∨ (s.counters.item m).preload = 0) →
      units < (s.counters.item k).count → ∃ cs : Quad Counter,
        s.takeImpressions units = { s with counters := cs, choices := s.choices + 1 } ∧
        cs.item k = { s.counters.item k with count := (s.counters.item k).count - units } ∧
        ∀ m, m < 4 → m ≠ k → cs.item m = s.counters.item m))

/-- LEVELS is taken colour by colour: an unknown level changes nothing, a drop learns the yield, a rise of 40 points
or more is an install, and then the station's consumables are evaluated by their cover and level in the order K, C, M,
Y.  A trigger creates a reorder under the next number, PROPOSED and counted while the owner tenant's allowance lasts and
else DEFERRED, with its notice, and a TONER fault whose colours all have reorders is suppressed
(R123, R131, R132, R134 to R137, R154).  The order of the evaluations is the model's reading (assumption 37). -/
def Obligations.LevelsLearnTheYield : Prop :=
  (∀ (s a : State) (h : ReplyHeader) (k c m y : Byte) (p : AwaitedPoll) (l : Link) (x : Station)
    (known : Byte → Option Nat), s.Heard h p l → l.accepted ≠ some h.seq → a = s.acceptEvent h p l →
    a.stations.fetch (stationOf h) = some x → (∀ b, known b = if b.toNat ≤ 100 then some b.toNat else none) →
    exec (.levels h k c m y) s = .next ((if x.colour = true then
        State.takeLevel (stationOf h) (State.takeLevel (stationOf h) (State.takeLevel (stationOf h)
          (State.takeLevel (stationOf h) a (.k, known k)) (.c, known c)) (.m, known m)) (.y, known y)
      else State.takeLevel (stationOf h) a (.k, known k)).evaluateStation (stationOf h))) ∧
  (∀ (s : State) (st new : Nat) (col : Toner) (r : Consumable),
    s.consumables.fetch (st * 4 + tonerCode col) = some r →
    State.takeLevel st s (col, none) = s ∧
    ∃ (cs : Table Consumable) (r' : Consumable), cs.fetch (st * 4 + tonerCode col) = some r' ∧
      (∀ k, k ≠ st * 4 + tonerCode col → cs.fetch k = s.consumables.fetch k) ∧
      (r.level = none → State.takeLevel st s (col, some new) = { s with consumables := cs } ∧
        r' = { r with level := some new, sinceChange := 0 }) ∧
      (∀ old, r.level = some old → old ≤ new → new < old + 40 →
        State.takeLevel st s (col, some new) = { s with consumables := cs } ∧ r' = { r with level := some new }) ∧
      (∀ old, r.level = some old → new < old → r.sinceChange = 0 →
        State.takeLevel st s (col, some new) = { s with consumables := cs } ∧ r' = { r with level := some new }) ∧
      (∀ old observed, r.level = some old → new < old → r.sinceChange ≠ 0 →
        observed = min (r.sinceChange / (old - new)) 65535 →
        State.takeLevel st s (col, some new) = { s with consumables := cs } ∧
        r' = { r with
          level := some new, sinceChange := 0
          yield := if r.yield = 0 then observed else (3 * r.yield + observed) / 4 }) ∧
      (∀ old, r.level = some old → old + 40 ≤ new → r.reorder = none →
        State.takeLevel st s (col, some new) = { s with consumables := cs } ∧
        r' = { r with level := some new, sinceChange := 0 }) ∧
      (∀ old n o, r.level = some old → old + 40 ≤ new → r.reorder = some n →
        s.reorders.find? (fun o => o.number = n) = some o → o.station = st → o.colour = col →
        State.takeLevel st s (col, some new) = ({ s with
          consumables := cs, reorders := s.reorders.filter (fun z => z.number ≠ n) } : State).notify
            (.reorderReceived n st col o.tenant o.state) ∧
        r' = { r with level := some new, sinceChange := 0, reorder := none })) ∧
  (∀ (s : State) (st cover : Nat) (col : Toner) (r : Consumable) (x : Station) (t : Tenant),
    s.consumables.fetch (st * 4 + tonerCode col) = some r → s.stations.fetch st = some x →
    s.tenants.fetch x.owner = some t →
    (r.level = none → cover = 999) →
    (∀ v, r.level = some v → cover = if r.yield = 0 ∨ r.rate = 0 then 999 else min (v * r.yield / r.rate) 999) →
    ∃ cs : Table Consumable, cs.fetch (st * 4 + tonerCode col) = some { r with cover := cover } ∧
      (∀ k, k ≠ st * 4 + tonerCode col → cs.fetch k = s.consumables.fetch k) ∧
      ((x.state = .probation ∨ r.level = none ∨ r.reorder ≠ none ∨ 64 ≤ s.reorders.length ∨
        (t.leadCover < cover ∧ ∃ v, r.level = some v ∧ t.floorPercent < v)) →
        State.evaluate st s col = { s with consumables := cs }) ∧
      (∀ v, x.state ≠ .probation → r.level = some v → r.reorder = none → s.reorders.length < 64 →
        (cover ≤ t.leadCover ∨ v ≤ t.floorPercent) →
        State.evaluate st s col = ({ s with consumables := cs } : State).createReorder st col x.owner
          (if cover ≤ t.leadCover then .cover else .floor) v cover)) ∧
  (∀ (s : State) (st : Nat), s.evaluateStation st =
    State.evaluate st (State.evaluate st (State.evaluate st (State.evaluate st s .k) .c) .m) .y) ∧
  (∀ (s : State) (st t level cover used : Nat) (col : Toner) (cause : ReorderCause) (x : Tenant) (fits : Bool),
    s.tenants.fetch t = some x → (∀ r ∈ s.reorders, r.number ≠ s.nextReorder) →
    (fits = true ↔ x.suppliesMode = Mode.unlimited ∨ x.suppliesUsed < x.suppliesAllowance) →
    used = (if fits then min (x.suppliesUsed + 1) 65535 else x.suppliesUsed) →
    ∃ (ts : Table Tenant) (cs : Table Consumable),
      s.createReorder st col t cause level cover = (({ s with
          tenants := ts, consumables := cs
          nextReorder := if s.nextReorder < 65535 then s.nextReorder + 1 else 1
          reorders := s.reorders ++
            [{ number := s.nextReorder, station := st, colour := col, tenant := t
               state := if fits then .proposed else .deferred
               created := s.clock, cause := cause, level := level, cover := cover
               due := none, overdue := false }] } : State).notify
        (if fits then
          .reorderProposed s.nextReorder st col t cause level cover used x.suppliesAllowance false false
        else .reorderDeferred s.nextReorder st col t cause level cover used x.suppliesAllowance)).reorderOpened
          st col ∧
      ts.fetch t = some { x with suppliesUsed := used } ∧ (∀ k, k ≠ t → ts.fetch k = s.tenants.fetch k) ∧
      cs.fetch (st * 4 + tonerCode col) = (s.consumables.fetch (st * 4 + tonerCode col)).map
        (fun r => { r with reorder := some s.nextReorder }) ∧
      ∀ k, k ≠ st * 4 + tonerCode col → cs.fetch k = s.consumables.fetch k) ∧
  (∀ (s : State) (st : Nat) (col : Toner),
    (∀ z, s.covered st z = true ↔ ∃ r ∈ s.reorders, r.station = st ∧ r.colour = z ∧ r.overdue = false) ∧
    (∀ f d, s.faults.fetch (st * 8 + 4) = some f → f.link = .waiting d → f.colours.contains col = true →
      (∀ z, f.colours.contains z = true → s.covered st z = true) → ∃ fs : Table FaultEntry,
        s.reorderOpened st col = { s with faults := fs } ∧
        fs.fetch (st * 8 + 4) = some { f with link := .suppressed } ∧
        ∀ k, k ≠ st * 8 + 4 → fs.fetch k = s.faults.fetch k) ∧
    ((∀ f d, s.faults.fetch (st * 8 + 4) = some f → f.link = .waiting d →
        f.colours.contains col = false ∨ ∃ z, f.colours.contains z = true ∧ s.covered st z = false) →
      s.reorderOpened st col = s))

/-- FAULT SET makes an entry for a class the station has none of, in PROBATION waiting without a due minute, SUPPRESSED
where reorders cover every colour, its callout falling due at once where a callout of the class still stands, and else
with its callout waiting for the delay or open at once; a repeat for TONER adds colours and ends a suppression they are
not covered by, and any other repeat changes nothing; and the state is derived again and handed over.  FAULT CLEAR
removes the entry, and its place in the pending list, and resolves its callout; a TONER clear that leaves colours keeps
the entry; a class the part does not take from an adapter is discarded
(R72, R73, R123, R149 to R152, R154, R157, R161). -/
def Obligations.FaultsAreSetAndCleared : Prop :=
  (∀ (s a : State) (h : ReplyHeader) (cls colours : Byte) (p : AwaitedPoll) (l : Link) (x : Station),
    s.Heard h p l → l.accepted ≠ some h.seq → a = s.acceptEvent h p l →
    a.stations.fetch (stationOf h) = some x →
    (∀ c : FaultClass, c ≠ .toner → c ≠ .silent → cls.toNat = classCode c →
      exec (.faultSet h cls colours) s = .next (a.setFault (stationOf h) c ⟨false, false, false, false⟩) ∧
      exec (.faultClear h cls colours) s = .next (a.clearFault (stationOf h) c ⟨false, false, false, false⟩)) ∧
    (∀ cs : ColourSet, cls = 4#8 → colours.toNat < 16 →
      cs = ⟨colours.getLsbD 0, colours.getLsbD 1 && x.colour, colours.getLsbD 2 && x.colour,
        colours.getLsbD 3 && x.colour⟩ →
      (cs ≠ ⟨false, false, false, false⟩ →
        exec (.faultSet h cls colours) s = .next (a.setFault (stationOf h) .toner cs) ∧
        exec (.faultClear h cls colours) s = .next (a.clearFault (stationOf h) .toner cs)) ∧
      (cs = ⟨false, false, false, false⟩ →
        exec (.faultSet h cls colours) s = .next a ∧ exec (.faultClear h cls colours) s = .next a)) ∧
    ((cls.toNat = 0 ∨ 6 ≤ cls.toNat ∨ (cls = 4#8 ∧ 16 ≤ colours.toNat)) →
      exec (.faultSet h cls colours) s = .next a ∧ exec (.faultClear h cls colours) s = .next a)) ∧
  (∀ (s : State) (st : Nat) (c : FaultClass) (cs : ColourSet) (x : Station),
    s.stations.fetch st = some x → x.state ≠ .probation → s.faults.fetch (st * 8 + classCode c) = none →
    (c = .toner → ∃ col, cs.contains col = true ∧ s.covered st col = false) →
    s.callouts.find? (fun q => q.2.station = st && q.2.cls = c) = none →
    (0 < s.policy.delay c → ∃ fs : Table FaultEntry,
      s.setFault st c cs = ({ s with faults := fs } : State).faultsChanged st ∧
      fs.fetch (st * 8 + classCode c) = some { station := st, cls := c, colours := cs, since := s.clock
                                               link := .waiting (some (min (s.clock + s.policy.delay c)
                                                 4294967295)) } ∧
      ∀ k, k ≠ st * 8 + classCode c → fs.fetch k = s.faults.fetch k) ∧
    (s.policy.delay c = 0 → s.callouts.length < 48 → s.callouts.has s.nextCallout = false →
      ∃ (fs : Table FaultEntry) (qs : Table Callout),
        s.setFault st c cs = (({ s with
          faults := fs, callouts := qs
          nextCallout := if s.nextCallout < 65535 then s.nextCallout + 1 else 1 } : State).notify
          (.calloutOpen s.nextCallout st x.floor c (if c = .toner then some cs else none) 1 0 false
            s.clock)).faultsChanged st ∧
        fs.fetch (st * 8 + classCode c) = some { station := st, cls := c, colours := cs, since := s.clock
                                                 link := .called s.nextCallout } ∧
        (∀ k, k ≠ st * 8 + classCode c → fs.fetch k = s.faults.fetch k) ∧
        qs.fetch s.nextCallout = some { station := st, cls := c, tier := 1, state := .opened, opened := s.clock
                                        deadline := some (min (s.clock + s.policy.t1) 4294967295)
                                        recurrence := 0 } ∧
        ∀ k, k ≠ s.nextCallout → qs.fetch k = s.callouts.fetch k) ∧
    (s.policy.delay c = 0 → 48 ≤ s.callouts.length → ∃ fs : Table FaultEntry,
      s.setFault st c cs =
        ({ s with faults := fs, pendingFaults := s.pendingFaults ++ [(st, c)] } : State).faultsChanged st ∧
      fs.fetch (st * 8 + classCode c) = some { station := st, cls := c, colours := cs, since := s.clock
                                               link := .pending s.clock } ∧
      ∀ k, k ≠ st * 8 + classCode c → fs.fetch k = s.faults.fetch k)) ∧
  (∀ (s : State) (st : Nat) (c : FaultClass) (cs : ColourSet) (x : Station) (f : FaultEntry),
    s.stations.fetch st = some x → s.faults.fetch (st * 8 + classCode c) = none →
    f = { station := st, cls := c, colours := cs, since := s.clock, link := .waiting none } →
    ∃ fs : Table FaultEntry, (∀ k, k ≠ st * 8 + classCode c → fs.fetch k = s.faults.fetch k) ∧
      (x.state = .probation → fs.fetch (st * 8 + classCode c) = some f ∧
        s.setFault st c cs = { s with faults := fs }) ∧
      (x.state ≠ .probation → c = .toner → (∀ col, cs.contains col = true → s.covered st col = true) →
        fs.fetch (st * 8 + classCode c) = some { f with link := .suppressed } ∧
        s.setFault st c cs = ({ s with faults := fs } : State).faultsChanged st) ∧
      (∀ p, x.state ≠ .probation → (c = .toner → ∃ col, cs.contains col = true ∧ s.covered st col = false) →
        s.callouts.find? (fun q => q.2.station = st && q.2.cls = c) = some p →
        fs.fetch (st * 8 + classCode c) = some f ∧
        s.setFault st c cs = ((({ s with faults := fs } : State).fallDue st c).faultsChanged st))) ∧
  (∀ (s : State) (st : Nat) (c : FaultClass) (cs : ColourSet) (f : FaultEntry),
    s.faults.fetch (st * 8 + classCode c) = some f →
    (c ≠ .toner → s.setFault st c cs = s) ∧
    (c = .toner → (∀ col, cs.contains col = true → f.colours.contains col = true) → s.setFault st c cs = s) ∧
    (c = .toner → (∃ col, cs.contains col = true ∧ f.colours.contains col = false) →
      ∃ (fs : Table FaultEntry) (f' : FaultEntry), fs.fetch (st * 8 + classCode c) = some f' ∧
        f' = { f with colours := f'.colours } ∧
        (∀ col, f'.colours.contains col = (f.colours.contains col || cs.contains col)) ∧
        (∀ k, k ≠ st * 8 + classCode c → fs.fetch k = s.faults.fetch k) ∧
        ((f.link ≠ .suppressed ∨ ∀ col, cs.contains col = true → f.colours.contains col = false →
            s.covered st col = true) →
          s.setFault st c cs = ({ s with faults := fs } : State).faultsChanged st) ∧
        (f.link = .suppressed → (∃ col, cs.contains col = true ∧ f.colours.contains col = false ∧
            s.covered st col = false) →
          s.setFault st c cs = (({ s with faults := fs } : State).fallDue st c).faultsChanged st))) ∧
  (∀ (s : State) (st : Nat) (cs : ColourSet) (f : FaultEntry), s.faults.fetch (st * 8 + 4) = some f →
    ((∀ col, f.colours.contains col = true → cs.contains col = false) → s.clearFault st .toner cs = s) ∧
    ((∃ col, f.colours.contains col = true ∧ cs.contains col = true) →
      (∃ col, f.colours.contains col = true ∧ cs.contains col = false) →
      ∃ (fs : Table FaultEntry) (f' : FaultEntry),
        s.clearFault st .toner cs = ({ s with faults := fs } : State).faultsChanged st ∧
        fs.fetch (st * 8 + 4) = some f' ∧ f' = { f with colours := f'.colours, link := f'.link } ∧
        (∀ col, f'.colours.contains col = (f.colours.contains col && !cs.contains col)) ∧
        (∀ d, f.link = .waiting d → (∀ col, f'.colours.contains col = true → s.covered st col = true) →
          f'.link = .suppressed) ∧
        (((∀ d, f.link ≠ .waiting d) ∨ ∃ col, f'.colours.contains col = true ∧ s.covered st col = false) →
          f'.link = f.link) ∧
        ∀ k, k ≠ st * 8 + 4 → fs.fetch k = s.faults.fetch k)) ∧
  (∀ (s : State) (st : Nat) (c : FaultClass) (cs : ColourSet), s.faults.Sorted →
    (s.faults.fetch (st * 8 + classCode c) = none → s.clearFault st c cs = s) ∧
    (∀ f, s.faults.fetch (st * 8 + classCode c) = some f →
      (c = .toner → (∃ col, f.colours.contains col = true) ∧
        ∀ col, f.colours.contains col = true → cs.contains col = true) → ∃ fs : Table FaultEntry,
      fs.fetch (st * 8 + classCode c) = none ∧
      (∀ k, k ≠ st * 8 + classCode c → fs.fetch k = s.faults.fetch k) ∧
      ((f.link = .suppressed ∨ ∃ d, f.link = .waiting d) →
        s.clearFault st c cs = ({ s with faults := fs } : State).faultsChanged st) ∧
      (∀ m, f.link = .pending m → s.clearFault st c cs =
        ({ s with faults := fs, pendingFaults := s.pendingFaults.erase (st, c) } : State).faultsChanged st) ∧
      (∀ n q, f.link = .called n → s.callouts.fetch n = some q → q.state = .resolved →
        s.clearFault st c cs = ({ s with faults := fs } : State).faultsChanged st) ∧
      (∀ n q, f.link = .called n → s.callouts.fetch n = some q → q.state ≠ .resolved →
        ∃ qs : Table Callout,
          s.clearFault st c cs = (({ s with faults := fs, callouts := qs } : State).notify
            (.calloutResolved n q.station (((s.stations.fetch q.station).map (·.floor)).getD 0) q.cls q.tier
              q.state)).faultsChanged st ∧
          qs.fetch n = some { q with state := .resolved, deadline := none } ∧
          ∀ k, k ≠ n → qs.fetch k = s.callouts.fetch k))) ∧
  (∀ (s : State) (st : Nat) (x : Station) (new : StationState), s.stations.fetch st = some x →
    new = (if (s.activeFaults st).any (fun f => f.cls ≠ .toner || f.colours.k) = true then .outOfService
      else if (s.activeFaults st).any (fun f => f.cls = .toner) = true then .degraded else .inService) →
    ((x.state = .probation ∨ x.state = .parked) → s.faultsChanged st = s) ∧
    (x.state ≠ .probation → x.state ≠ .parked → x.state = new → s.faultsChanged st = s.handOver st) ∧
    (x.state ≠ .probation → x.state ≠ .parked → x.state ≠ new → ∃ xs : Table Station,
      s.faultsChanged st = (({ s with stations := xs } : State).notify
        (.stationState st x.state (some new) (s.activeClasses st))).handOver st ∧
      xs.fetch st = some { x with state := new } ∧ ∀ k, k ≠ st → xs.fetch k = s.stations.fetch k))

/-! ### Deadlines -/

/-- The deadlines of a job and of its queue entry, when the clock has reached them: HOLD deletes an unreleased job,
COMMIT sends an uncommitted one back, START withdraws and returns a sent one (or drops one whose cancel was
requested), and ABANDON settles the last progress counts; each changes nothing before its minute
(R50, R58, R60, R100 to R103).  That each falls due at a step of its own, which reads the clock as it then stands
(assumption 10), that JOB ABANDONED leaves out JOB DONE's aborted indication with the abort reason (assumption 30), and
that a job sent back expires by the clock as it then stands, also where the clock has been set back since its hold
deadline was reached (assumption 38), are the model's reading. -/
def Obligations.JobDeadlinesFallDue : Prop :=
  (∀ (s : State) (slot : Nat) (j : Job), s.resetHeld = false → s.jobs.fetch slot = some j →
    s.jobNamed j.handle = some j →
    ((j.state = .queued ∨ j.state = .printing ∨ s.clock < j.holdDeadline) →
      exec (.holdDeadline slot) s = .next s) ∧
    ((j.state = .receiving ∨ j.state = .held) → j.holdDeadline ≤ s.clock →
      exec (.holdDeadline slot) s =
        .next ((s.deleteJob j).notify (.jobExpired j.handle j.owner j.spoolRef)))) ∧
  (∀ (s b w : State) (st : Nat) (j : Job) (c : Charging) (notice : NoticeBody), j.charging = some c →
    s.jobNamed j.handle = some j →
    b = (((s.removeEntry st j.handle).unreserve j.owner j.tenant c.reservation).updateJob j.handle
      (fun j => { j with state := if j.committed then .held else .receiving, charging := none })).notify
        notice →
    w = b.deleteJob { j with state := if j.committed then .held else .receiving, charging := none } →
    (s.clock < j.holdDeadline → s.sendBack st j notice = b) ∧
    (j.holdDeadline ≤ s.clock → s.sendBack st j notice = w.notify (.jobExpired j.handle j.owner j.spoolRef))) ∧
  (∀ (s : State) (slot : Nat) (j : Job) (c : Charging) (x : Station) (e : Entry), s.resetHeld = false →
    s.jobs.fetch slot = some j → j.charging = some c → s.stations.fetch c.station = some x →
    x.queue.find? (fun f => f.handle = j.handle) = some e → s.jobNamed j.handle = some j →
    ((∀ m, e.commitDeadline = some m → s.clock < m) → exec (.commitDeadline slot) s = .next s) ∧
    (∀ m, e.commitDeadline = some m → m ≤ s.clock → j.committed = false →
      exec (.commitDeadline slot) s = .next ((s.sendBack c.station j
        (.commitLapsed j.handle j.owner j.spoolRef c.station)).sendCheck c.station)) ∧
    ((∀ m, e.startDeadline = some m → s.clock < m) → exec (.startDeadline slot) s = .next s) ∧
    (∀ m, e.startDeadline = some m → m ≤ s.clock →
      (j.cancelRequested = false → exec (.startDeadline slot) s = .next
        (((s.handCommand c.station (.withdraw (j.handle / 256 * 64 + j.handle % 256 % 64))).sendBack c.station j
          (.jobReturned j.handle j.owner j.spoolRef c.station (if j.committed then .held else .receiving)
            .noStart)).sendCheck c.station)) ∧
      (j.cancelRequested = true → exec (.startDeadline slot) s = .next
        ((((((s.handCommand c.station (.withdraw (j.handle / 256 * 64 + j.handle % 256 % 64))).removeEntry
          c.station j.handle).unreserve j.owner j.tenant c.reservation).deleteJob j).notify
            (.jobDeleted j.handle j.owner j.spoolRef .cancel)).sendCheck c.station))) ∧
    ((∀ m, e.abandonDeadline = some m → s.clock < m) → exec (.abandonDeadline slot) s = .next s) ∧
    (∀ m, e.abandonDeadline = some m → m ≤ s.clock → exec (.abandonDeadline slot) s = .next
      ((s.handCommand c.station (.withdraw (j.handle / 256 * 64 + j.handle % 256 % 64))).endJob c.station j c
        (j.progress.getD ⟨0, 0, 0⟩) (fun charge n => .jobAbandoned j.handle j.owner j.spoolRef c.station charge n
          c.fallback (s.blockingClasses c.station)))))

/-- A fault's due minute makes its callout fall due and ends a clear window.  A callout that falls due recurs at its
tier where a record of the station and class still stands, with its recurrence count raised to 255 at most and CALLOUT
OPEN saying reopened; else it opens at tier 1 under the next number while the table has room; else the fault pends.  A
tier deadline escalates an OPEN callout by one tier, and stalls it at tier 3; a reorder's due minute makes it overdue
once and ends the suppression it gave; each changes nothing before its minute (R105, R140, R151, R155 to R158, R161;
that each falls due at a step of its own is assumption 10). -/
def Obligations.OtherDeadlinesFallDue : Prop :=
  (∀ (s : State) (st : Nat) (c : FaultClass) (f : FaultEntry), s.resetHeld = false →
    s.faults.fetch (st * 8 + classCode c) = some f →
    ((∀ m, f.link = .waiting (some m) → s.clock < m) → exec (.faultDueMinute st c) s = .next s) ∧
    (∀ m, f.link = .waiting (some m) → m ≤ s.clock →
      ((c = .jam ∨ c = .door ∨ c = .paper) → exec (.faultDueMinute st c) s =
        .next (((s.fallDue st c).returnWaiting st (fun e => e.holdOver) .clearWindow).sendCheck st)) ∧
      ((c = .toner ∨ c = .service ∨ c = .silent) →
        exec (.faultDueMinute st c) s = .next (s.fallDue st c)))) ∧
  (∀ (s : State) (n : Nat) (x : Callout), s.resetHeld = false → s.callouts.fetch n = some x →
    ((x.state ≠ .opened ∨ ∀ m, x.deadline = some m → s.clock < m) →
      exec (.tierDeadline n) s = .next s) ∧
    (∀ m floor, x.state = .opened → x.deadline = some m → m ≤ s.clock →
      floor = ((s.stations.fetch x.station).map (·.floor)).getD 0 →
      ∃ cs : Table Callout, (∀ k, k ≠ n → cs.fetch k = s.callouts.fetch k) ∧
        (x.tier < 3 → exec (.tierDeadline n) s = .next (({ s with callouts := cs } : State).notify
            (.calloutEscalated n x.station floor x.cls (x.tier + 1) x.recurrence)) ∧
          (1 ≤ x.tier → cs.fetch n = some { x with
            tier := x.tier + 1
            deadline := some (min (s.clock + if x.tier = 1 then s.policy.t2 else s.policy.t3) 4294967295) })) ∧
        (3 ≤ x.tier → exec (.tierDeadline n) s = .next (({ s with callouts := cs } : State).notify
            (.calloutStalled n x.station floor x.cls x.tier x.opened x.recurrence false)) ∧
          cs.fetch n = some { x with state := .stalled, deadline := none }))) ∧
  (∀ (s : State) (n : Nat) (r : Reorder), s.resetHeld = false →
    s.reorders.find? (fun o => o.number = n) = some r →
    ((r.state ≠ .placed ∨ r.overdue = true ∨ ∀ m, r.due = some m → s.clock < m) →
      exec (.reorderDueMinute n) s = .next s) ∧
    (∀ m, r.state = .placed → r.overdue = false → r.due = some m → m ≤ s.clock →
      exec (.reorderDueMinute n) s = .next ((({ s with
        reorders := s.reorders.map (fun o : Reorder => if o.number = n then { o with overdue := true } else o) } :
          State).notify (.reorderOverdue n r.station r.colour r.tenant m)).suppressionEnds r.station r.colour))) ∧
  (∀ (s : State) (st : Nat) (c : FaultClass) (f : FaultEntry) (floor : Nat) (cs : Option ColourSet),
    s.faults.fetch (st * 8 + classCode c) = some f →
    floor = ((s.stations.fetch st).map (·.floor)).getD 0 → cs = (if c = .toner then some f.colours else none) →
    (∀ (n deadline recurrence : Nat) (x : Callout),
      s.callouts.find? (fun q => q.2.station = st && q.2.cls = c) = some (n, x) →
      deadline = min (s.clock + if x.tier = 1 then s.policy.t1 else if x.tier = 2 then s.policy.t2
        else s.policy.t3) 4294967295 →
      recurrence = min (x.recurrence + 1) 255 →
      ∃ (fs : Table FaultEntry) (qs : Table Callout),
        s.fallDue st c = ({ s with faults := fs, callouts := qs } : State).notify
          (.calloutOpen n st floor c cs x.tier recurrence true f.since) ∧
        fs.fetch (st * 8 + classCode c) = some { f with link := .called n } ∧
        (∀ k, k ≠ st * 8 + classCode c → fs.fetch k = s.faults.fetch k) ∧
        qs.fetch n = some { x with state := .opened, deadline := some deadline, recurrence := recurrence } ∧
        ∀ k, k ≠ n → qs.fetch k = s.callouts.fetch k) ∧
    (s.callouts.find? (fun q => q.2.station = st && q.2.cls = c) = none →
      ∃ fs : Table FaultEntry, (∀ k, k ≠ st * 8 + classCode c → fs.fetch k = s.faults.fetch k) ∧
        (s.callouts.length < 48 → s.callouts.has s.nextCallout = false → ∃ qs : Table Callout,
          s.fallDue st c = ({ s with
            faults := fs, callouts := qs
            nextCallout := if s.nextCallout < 65535 then s.nextCallout + 1 else 1 } : State).notify
            (.calloutOpen s.nextCallout st floor c cs 1 0 false f.since) ∧
          fs.fetch (st * 8 + classCode c) = some { f with link := .called s.nextCallout } ∧
          qs.fetch s.nextCallout = some { station := st, cls := c, tier := 1, state := .opened, opened := s.clock
                                          deadline := some (min (s.clock + s.policy.t1) 4294967295)
                                          recurrence := 0 } ∧
          ∀ k, k ≠ s.nextCallout → qs.fetch k = s.callouts.fetch k) ∧
        (48 ≤ s.callouts.length →
          s.fallDue st c = { s with faults := fs, pendingFaults := s.pendingFaults ++ [(st, c)] } ∧
          fs.fetch (st * 8 + classCode c) = some { f with link := .pending s.clock }))) ∧
  (∀ (s : State) (st : Nat) (col : Toner),
    (∀ f, s.faults.fetch (st * 8 + 4) = some f → f.link = .suppressed → f.colours.contains col = true →
      s.suppressionEnds st col = s.fallDue st .toner) ∧
    ((∀ f, s.faults.fetch (st * 8 + 4) = some f → f.link ≠ .suppressed ∨ f.colours.contains col = false) →
      s.suppressionEnds st col = s))

/-! ### What every step keeps -/

/-- Every step keeps the queues within their capacities: at most 8 requests, at most 64 notices, and at most 4
commands for a station with at most one SHOW, none of them held back (R119, R120, R182, R184). -/
def Obligations.EveryStepKeepsQueueCapacities : Prop :=
  ∀ s t : State, s.QueueInv → step s = .next t → t.QueueInv

/-- Every step keeps the clock, the interval counters and every account's used in their ranges (R29, R34, R38, R168,
R172). -/
def Obligations.EveryStepKeepsCountsInRange : Prop :=
  ∀ s t : State, s.CountInv → step s = .next t → t.CountInv

/-- Every step keeps the tables canonical: each record stands once, each job in the slot and under the generation that
its handle names, and each fault under its station and class (R45 to R48, R148). -/
def Obligations.EveryStepKeepsTablesCanonical : Prop :=
  ∀ s t : State, s.Canonical → step s = .next t → t.Canonical

/-- Every step keeps the owner lists and the store in agreement: a user's list names that user's jobs, each once, every
job stands in its owner's list, and the job count is the list's length (R4, R51, R61). -/
def Obligations.EveryStepKeepsOwnerLists : Prop :=
  ∀ s t : State, s.OwnerInv → step s = .next t → t.OwnerInv

/-- The state after power-on satisfies every invariant. -/
def Obligations.InvariantsHoldAtReset : Prop :=
  State.reset.QueueInv ∧ State.reset.CountInv ∧ State.reset.Canonical ∧ State.reset.OwnerInv
end

