-- ==== Sys2Proof/Laws/State.lean ====
section
/-! SUPPORT. What each update of the state leaves as it was: one lemma per field per update. -/

namespace Sys2Proof.Machine

variable (s : State)

/-! ### notify -/

@[simp] theorem State.notify_resetHeld (b : NoticeBody) : (s.notify b).resetHeld = s.resetHeld := by unfold State.notify; split <;> [split <;> rfl; rfl]
@[simp] theorem State.notify_rate (b : NoticeBody) : (s.notify b).rate = s.rate := by unfold State.notify; split <;> [split <;> rfl; rfl]
@[simp] theorem State.notify_rx (b : NoticeBody) : (s.notify b).rx = s.rx := by unfold State.notify; split <;> [split <;> rfl; rfl]
@[simp] theorem State.notify_requests (b : NoticeBody) : (s.notify b).requests = s.requests := by unfold State.notify; split <;> [split <;> rfl; rfl]
@[simp] theorem State.notify_overflow (b : NoticeBody) : (s.notify b).overflow = s.overflow := by unfold State.notify; split <;> [split <;> rfl; rfl]
@[simp] theorem State.notify_txd (b : NoticeBody) : (s.notify b).txd = s.txd := by unfold State.notify; split <;> [split <;> rfl; rfl]
@[simp] theorem State.notify_replies (b : NoticeBody) : (s.notify b).replies = s.replies := by unfold State.notify; split <;> [split <;> rfl; rfl]
@[simp] theorem State.notify_mask (b : NoticeBody) : (s.notify b).mask = s.mask := by unfold State.notify; split <;> [split <;> rfl; rfl]
@[simp] theorem State.notify_risers (b : NoticeBody) : (s.notify b).risers = s.risers := by unfold State.notify; split <;> [split <;> rfl; rfl]
@[simp] theorem State.notify_links (b : NoticeBody) : (s.notify b).links = s.links := by unfold State.notify; split <;> [split <;> rfl; rfl]
@[simp] theorem State.notify_stations (b : NoticeBody) : (s.notify b).stations = s.stations := by unfold State.notify; split <;> [split <;> rfl; rfl]
@[simp] theorem State.notify_jobs (b : NoticeBody) : (s.notify b).jobs = s.jobs := by unfold State.notify; split <;> [split <;> rfl; rfl]
@[simp] theorem State.notify_generations (b : NoticeBody) : (s.notify b).generations = s.generations := by unfold State.notify; split <;> [split <;> rfl; rfl]
@[simp] theorem State.notify_partitions (b : NoticeBody) : (s.notify b).partitions = s.partitions := by unfold State.notify; split <;> [split <;> rfl; rfl]
@[simp] theorem State.notify_startWindow (b : NoticeBody) : (s.notify b).startWindow = s.startWindow := by unfold State.notify; split <;> [split <;> rfl; rfl]
@[simp] theorem State.notify_abandonWindow (b : NoticeBody) : (s.notify b).abandonWindow = s.abandonWindow := by unfold State.notify; split <;> [split <;> rfl; rfl]
@[simp] theorem State.notify_rates (b : NoticeBody) : (s.notify b).rates = s.rates := by unfold State.notify; split <;> [split <;> rfl; rfl]
@[simp] theorem State.notify_tenants (b : NoticeBody) : (s.notify b).tenants = s.tenants := by unfold State.notify; split <;> [split <;> rfl; rfl]
@[simp] theorem State.notify_users (b : NoticeBody) : (s.notify b).users = s.users := by unfold State.notify; split <;> [split <;> rfl; rfl]
@[simp] theorem State.notify_consumables (b : NoticeBody) : (s.notify b).consumables = s.consumables := by unfold State.notify; split <;> [split <;> rfl; rfl]
@[simp] theorem State.notify_reorders (b : NoticeBody) : (s.notify b).reorders = s.reorders := by unfold State.notify; split <;> [split <;> rfl; rfl]
@[simp] theorem State.notify_nextReorder (b : NoticeBody) : (s.notify b).nextReorder = s.nextReorder := by unfold State.notify; split <;> [split <;> rfl; rfl]
@[simp] theorem State.notify_faults (b : NoticeBody) : (s.notify b).faults = s.faults := by unfold State.notify; split <;> [split <;> rfl; rfl]
@[simp] theorem State.notify_callouts (b : NoticeBody) : (s.notify b).callouts = s.callouts := by unfold State.notify; split <;> [split <;> rfl; rfl]
@[simp] theorem State.notify_nextCallout (b : NoticeBody) : (s.notify b).nextCallout = s.nextCallout := by unfold State.notify; split <;> [split <;> rfl; rfl]
@[simp] theorem State.notify_pendingFaults (b : NoticeBody) : (s.notify b).pendingFaults = s.pendingFaults := by unfold State.notify; split <;> [split <;> rfl; rfl]
@[simp] theorem State.notify_policy (b : NoticeBody) : (s.notify b).policy = s.policy := by unfold State.notify; split <;> [split <;> rfl; rfl]
@[simp] theorem State.notify_clock (b : NoticeBody) : (s.notify b).clock = s.clock := by unfold State.notify; split <;> [split <;> rfl; rfl]
@[simp] theorem State.notify_counters (b : NoticeBody) : (s.notify b).counters = s.counters := by unfold State.notify; split <;> [split <;> rfl; rfl]
@[simp] theorem State.notify_expiries (b : NoticeBody) : (s.notify b).expiries = s.expiries := by unfold State.notify; split <;> [split <;> rfl; rfl]
@[simp] theorem State.notify_choices (b : NoticeBody) : (s.notify b).choices = s.choices := by unfold State.notify; split <;> [split <;> rfl; rfl]
@[simp] theorem State.notify_pending (b : NoticeBody) : (s.notify b).pending = s.pending := by unfold State.notify; split <;> [split <;> rfl; rfl]

/-! ### reply -/

@[simp] theorem State.reply_resetHeld (q : Request) (a : Answer) : (s.reply q a).resetHeld = s.resetHeld := rfl
@[simp] theorem State.reply_rate (q : Request) (a : Answer) : (s.reply q a).rate = s.rate := rfl
@[simp] theorem State.reply_rx (q : Request) (a : Answer) : (s.reply q a).rx = s.rx := rfl
@[simp] theorem State.reply_requests (q : Request) (a : Answer) : (s.reply q a).requests = s.requests := rfl
@[simp] theorem State.reply_overflow (q : Request) (a : Answer) : (s.reply q a).overflow = s.overflow := rfl
@[simp] theorem State.reply_notices (q : Request) (a : Answer) : (s.reply q a).notices = s.notices := rfl
@[simp] theorem State.reply_mask (q : Request) (a : Answer) : (s.reply q a).mask = s.mask := rfl
@[simp] theorem State.reply_lost (q : Request) (a : Answer) : (s.reply q a).lost = s.lost := rfl
@[simp] theorem State.reply_risers (q : Request) (a : Answer) : (s.reply q a).risers = s.risers := rfl
@[simp] theorem State.reply_links (q : Request) (a : Answer) : (s.reply q a).links = s.links := rfl
@[simp] theorem State.reply_stations (q : Request) (a : Answer) : (s.reply q a).stations = s.stations := rfl
@[simp] theorem State.reply_jobs (q : Request) (a : Answer) : (s.reply q a).jobs = s.jobs := rfl
@[simp] theorem State.reply_generations (q : Request) (a : Answer) : (s.reply q a).generations = s.generations := rfl
@[simp] theorem State.reply_partitions (q : Request) (a : Answer) : (s.reply q a).partitions = s.partitions := rfl
@[simp] theorem State.reply_startWindow (q : Request) (a : Answer) : (s.reply q a).startWindow = s.startWindow := rfl
@[simp] theorem State.reply_abandonWindow (q : Request) (a : Answer) : (s.reply q a).abandonWindow = s.abandonWindow := rfl
@[simp] theorem State.reply_rates (q : Request) (a : Answer) : (s.reply q a).rates = s.rates := rfl
@[simp] theorem State.reply_tenants (q : Request) (a : Answer) : (s.reply q a).tenants = s.tenants := rfl
@[simp] theorem State.reply_users (q : Request) (a : Answer) : (s.reply q a).users = s.users := rfl
@[simp] theorem State.reply_consumables (q : Request) (a : Answer) : (s.reply q a).consumables = s.consumables := rfl
@[simp] theorem State.reply_reorders (q : Request) (a : Answer) : (s.reply q a).reorders = s.reorders := rfl
@[simp] theorem State.reply_nextReorder (q : Request) (a : Answer) : (s.reply q a).nextReorder = s.nextReorder := rfl
@[simp] theorem State.reply_faults (q : Request) (a : Answer) : (s.reply q a).faults = s.faults := rfl
@[simp] theorem State.reply_callouts (q : Request) (a : Answer) : (s.reply q a).callouts = s.callouts := rfl
@[simp] theorem State.reply_nextCallout (q : Request) (a : Answer) : (s.reply q a).nextCallout = s.nextCallout := rfl
@[simp] theorem State.reply_pendingFaults (q : Request) (a : Answer) : (s.reply q a).pendingFaults = s.pendingFaults := rfl
@[simp] theorem State.reply_policy (q : Request) (a : Answer) : (s.reply q a).policy = s.policy := rfl
@[simp] theorem State.reply_clock (q : Request) (a : Answer) : (s.reply q a).clock = s.clock := rfl
@[simp] theorem State.reply_counters (q : Request) (a : Answer) : (s.reply q a).counters = s.counters := rfl
@[simp] theorem State.reply_expiries (q : Request) (a : Answer) : (s.reply q a).expiries = s.expiries := rfl
@[simp] theorem State.reply_choices (q : Request) (a : Answer) : (s.reply q a).choices = s.choices := rfl
@[simp] theorem State.reply_pending (q : Request) (a : Answer) : (s.reply q a).pending = s.pending := rfl

/-! ### updateStation -/

@[simp] theorem State.updateStation_resetHeld (st : Nat) (f : Station → Station) : (s.updateStation st f).resetHeld = s.resetHeld := rfl
@[simp] theorem State.updateStation_rate (st : Nat) (f : Station → Station) : (s.updateStation st f).rate = s.rate := rfl
@[simp] theorem State.updateStation_rx (st : Nat) (f : Station → Station) : (s.updateStation st f).rx = s.rx := rfl
@[simp] theorem State.updateStation_requests (st : Nat) (f : Station → Station) : (s.updateStation st f).requests = s.requests := rfl
@[simp] theorem State.updateStation_overflow (st : Nat) (f : Station → Station) : (s.updateStation st f).overflow = s.overflow := rfl
@[simp] theorem State.updateStation_txd (st : Nat) (f : Station → Station) : (s.updateStation st f).txd = s.txd := rfl
@[simp] theorem State.updateStation_replies (st : Nat) (f : Station → Station) : (s.updateStation st f).replies = s.replies := rfl
@[simp] theorem State.updateStation_notices (st : Nat) (f : Station → Station) : (s.updateStation st f).notices = s.notices := rfl
@[simp] theorem State.updateStation_mask (st : Nat) (f : Station → Station) : (s.updateStation st f).mask = s.mask := rfl
@[simp] theorem State.updateStation_lost (st : Nat) (f : Station → Station) : (s.updateStation st f).lost = s.lost := rfl
@[simp] theorem State.updateStation_risers (st : Nat) (f : Station → Station) : (s.updateStation st f).risers = s.risers := rfl
@[simp] theorem State.updateStation_links (st : Nat) (f : Station → Station) : (s.updateStation st f).links = s.links := rfl
@[simp] theorem State.updateStation_jobs (st : Nat) (f : Station → Station) : (s.updateStation st f).jobs = s.jobs := rfl
@[simp] theorem State.updateStation_generations (st : Nat) (f : Station → Station) : (s.updateStation st f).generations = s.generations := rfl
@[simp] theorem State.updateStation_partitions (st : Nat) (f : Station → Station) : (s.updateStation st f).partitions = s.partitions := rfl
@[simp] theorem State.updateStation_startWindow (st : Nat) (f : Station → Station) : (s.updateStation st f).startWindow = s.startWindow := rfl
@[simp] theorem State.updateStation_abandonWindow (st : Nat) (f : Station → Station) : (s.updateStation st f).abandonWindow = s.abandonWindow := rfl
@[simp] theorem State.updateStation_rates (st : Nat) (f : Station → Station) : (s.updateStation st f).rates = s.rates := rfl
@[simp] theorem State.updateStation_tenants (st : Nat) (f : Station → Station) : (s.updateStation st f).tenants = s.tenants := rfl
@[simp] theorem State.updateStation_users (st : Nat) (f : Station → Station) : (s.updateStation st f).users = s.users := rfl
@[simp] theorem State.updateStation_consumables (st : Nat) (f : Station → Station) : (s.updateStation st f).consumables = s.consumables := rfl
@[simp] theorem State.updateStation_reorders (st : Nat) (f : Station → Station) : (s.updateStation st f).reorders = s.reorders := rfl
@[simp] theorem State.updateStation_nextReorder (st : Nat) (f : Station → Station) : (s.updateStation st f).nextReorder = s.nextReorder := rfl
@[simp] theorem State.updateStation_faults (st : Nat) (f : Station → Station) : (s.updateStation st f).faults = s.faults := rfl
@[simp] theorem State.updateStation_callouts (st : Nat) (f : Station → Station) : (s.updateStation st f).callouts = s.callouts := rfl
@[simp] theorem State.updateStation_nextCallout (st : Nat) (f : Station → Station) : (s.updateStation st f).nextCallout = s.nextCallout := rfl
@[simp] theorem State.updateStation_pendingFaults (st : Nat) (f : Station → Station) : (s.updateStation st f).pendingFaults = s.pendingFaults := rfl
@[simp] theorem State.updateStation_policy (st : Nat) (f : Station → Station) : (s.updateStation st f).policy = s.policy := rfl
@[simp] theorem State.updateStation_clock (st : Nat) (f : Station → Station) : (s.updateStation st f).clock = s.clock := rfl
@[simp] theorem State.updateStation_counters (st : Nat) (f : Station → Station) : (s.updateStation st f).counters = s.counters := rfl
@[simp] theorem State.updateStation_expiries (st : Nat) (f : Station → Station) : (s.updateStation st f).expiries = s.expiries := rfl
@[simp] theorem State.updateStation_choices (st : Nat) (f : Station → Station) : (s.updateStation st f).choices = s.choices := rfl
@[simp] theorem State.updateStation_pending (st : Nat) (f : Station → Station) : (s.updateStation st f).pending = s.pending := rfl

/-! ### mapQueue -/

@[simp] theorem State.mapQueue_resetHeld (st : Nat) (f : Entry → Entry) : (s.mapQueue st f).resetHeld = s.resetHeld := rfl
@[simp] theorem State.mapQueue_rate (st : Nat) (f : Entry → Entry) : (s.mapQueue st f).rate = s.rate := rfl
@[simp] theorem State.mapQueue_rx (st : Nat) (f : Entry → Entry) : (s.mapQueue st f).rx = s.rx := rfl
@[simp] theorem State.mapQueue_requests (st : Nat) (f : Entry → Entry) : (s.mapQueue st f).requests = s.requests := rfl
@[simp] theorem State.mapQueue_overflow (st : Nat) (f : Entry → Entry) : (s.mapQueue st f).overflow = s.overflow := rfl
@[simp] theorem State.mapQueue_txd (st : Nat) (f : Entry → Entry) : (s.mapQueue st f).txd = s.txd := rfl
@[simp] theorem State.mapQueue_replies (st : Nat) (f : Entry → Entry) : (s.mapQueue st f).replies = s.replies := rfl
@[simp] theorem State.mapQueue_notices (st : Nat) (f : Entry → Entry) : (s.mapQueue st f).notices = s.notices := rfl
@[simp] theorem State.mapQueue_mask (st : Nat) (f : Entry → Entry) : (s.mapQueue st f).mask = s.mask := rfl
@[simp] theorem State.mapQueue_lost (st : Nat) (f : Entry → Entry) : (s.mapQueue st f).lost = s.lost := rfl
@[simp] theorem State.mapQueue_risers (st : Nat) (f : Entry → Entry) : (s.mapQueue st f).risers = s.risers := rfl
@[simp] theorem State.mapQueue_links (st : Nat) (f : Entry → Entry) : (s.mapQueue st f).links = s.links := rfl
@[simp] theorem State.mapQueue_jobs (st : Nat) (f : Entry → Entry) : (s.mapQueue st f).jobs = s.jobs := rfl
@[simp] theorem State.mapQueue_generations (st : Nat) (f : Entry → Entry) : (s.mapQueue st f).generations = s.generations := rfl
@[simp] theorem State.mapQueue_partitions (st : Nat) (f : Entry → Entry) : (s.mapQueue st f).partitions = s.partitions := rfl
@[simp] theorem State.mapQueue_startWindow (st : Nat) (f : Entry → Entry) : (s.mapQueue st f).startWindow = s.startWindow := rfl
@[simp] theorem State.mapQueue_abandonWindow (st : Nat) (f : Entry → Entry) : (s.mapQueue st f).abandonWindow = s.abandonWindow := rfl
@[simp] theorem State.mapQueue_rates (st : Nat) (f : Entry → Entry) : (s.mapQueue st f).rates = s.rates := rfl
@[simp] theorem State.mapQueue_tenants (st : Nat) (f : Entry → Entry) : (s.mapQueue st f).tenants = s.tenants := rfl
@[simp] theorem State.mapQueue_users (st : Nat) (f : Entry → Entry) : (s.mapQueue st f).users = s.users := rfl
@[simp] theorem State.mapQueue_consumables (st : Nat) (f : Entry → Entry) : (s.mapQueue st f).consumables = s.consumables := rfl
@[simp] theorem State.mapQueue_reorders (st : Nat) (f : Entry → Entry) : (s.mapQueue st f).reorders = s.reorders := rfl
@[simp] theorem State.mapQueue_nextReorder (st : Nat) (f : Entry → Entry) : (s.mapQueue st f).nextReorder = s.nextReorder := rfl
@[simp] theorem State.mapQueue_faults (st : Nat) (f : Entry → Entry) : (s.mapQueue st f).faults = s.faults := rfl
@[simp] theorem State.mapQueue_callouts (st : Nat) (f : Entry → Entry) : (s.mapQueue st f).callouts = s.callouts := rfl
@[simp] theorem State.mapQueue_nextCallout (st : Nat) (f : Entry → Entry) : (s.mapQueue st f).nextCallout = s.nextCallout := rfl
@[simp] theorem State.mapQueue_pendingFaults (st : Nat) (f : Entry → Entry) : (s.mapQueue st f).pendingFaults = s.pendingFaults := rfl
@[simp] theorem State.mapQueue_policy (st : Nat) (f : Entry → Entry) : (s.mapQueue st f).policy = s.policy := rfl
@[simp] theorem State.mapQueue_clock (st : Nat) (f : Entry → Entry) : (s.mapQueue st f).clock = s.clock := rfl
@[simp] theorem State.mapQueue_counters (st : Nat) (f : Entry → Entry) : (s.mapQueue st f).counters = s.counters := rfl
@[simp] theorem State.mapQueue_expiries (st : Nat) (f : Entry → Entry) : (s.mapQueue st f).expiries = s.expiries := rfl
@[simp] theorem State.mapQueue_choices (st : Nat) (f : Entry → Entry) : (s.mapQueue st f).choices = s.choices := rfl
@[simp] theorem State.mapQueue_pending (st : Nat) (f : Entry → Entry) : (s.mapQueue st f).pending = s.pending := rfl

/-! ### removeEntry -/

@[simp] theorem State.removeEntry_resetHeld (st handle : Nat) : (s.removeEntry st handle).resetHeld = s.resetHeld := rfl
@[simp] theorem State.removeEntry_rate (st handle : Nat) : (s.removeEntry st handle).rate = s.rate := rfl
@[simp] theorem State.removeEntry_rx (st handle : Nat) : (s.removeEntry st handle).rx = s.rx := rfl
@[simp] theorem State.removeEntry_requests (st handle : Nat) : (s.removeEntry st handle).requests = s.requests := rfl
@[simp] theorem State.removeEntry_overflow (st handle : Nat) : (s.removeEntry st handle).overflow = s.overflow := rfl
@[simp] theorem State.removeEntry_txd (st handle : Nat) : (s.removeEntry st handle).txd = s.txd := rfl
@[simp] theorem State.removeEntry_replies (st handle : Nat) : (s.removeEntry st handle).replies = s.replies := rfl
@[simp] theorem State.removeEntry_notices (st handle : Nat) : (s.removeEntry st handle).notices = s.notices := rfl
@[simp] theorem State.removeEntry_mask (st handle : Nat) : (s.removeEntry st handle).mask = s.mask := rfl
@[simp] theorem State.removeEntry_lost (st handle : Nat) : (s.removeEntry st handle).lost = s.lost := rfl
@[simp] theorem State.removeEntry_risers (st handle : Nat) : (s.removeEntry st handle).risers = s.risers := rfl
@[simp] theorem State.removeEntry_links (st handle : Nat) : (s.removeEntry st handle).links = s.links := rfl
@[simp] theorem State.removeEntry_jobs (st handle : Nat) : (s.removeEntry st handle).jobs = s.jobs := rfl
@[simp] theorem State.removeEntry_generations (st handle : Nat) : (s.removeEntry st handle).generations = s.generations := rfl
@[simp] theorem State.removeEntry_partitions (st handle : Nat) : (s.removeEntry st handle).partitions = s.partitions := rfl
@[simp] theorem State.removeEntry_startWindow (st handle : Nat) : (s.removeEntry st handle).startWindow = s.startWindow := rfl
@[simp] theorem State.removeEntry_abandonWindow (st handle : Nat) : (s.removeEntry st handle).abandonWindow = s.abandonWindow := rfl
@[simp] theorem State.removeEntry_rates (st handle : Nat) : (s.removeEntry st handle).rates = s.rates := rfl
@[simp] theorem State.removeEntry_tenants (st handle : Nat) : (s.removeEntry st handle).tenants = s.tenants := rfl
@[simp] theorem State.removeEntry_users (st handle : Nat) : (s.removeEntry st handle).users = s.users := rfl
@[simp] theorem State.removeEntry_consumables (st handle : Nat) : (s.removeEntry st handle).consumables = s.consumables := rfl
@[simp] theorem State.removeEntry_reorders (st handle : Nat) : (s.removeEntry st handle).reorders = s.reorders := rfl
@[simp] theorem State.removeEntry_nextReorder (st handle : Nat) : (s.removeEntry st handle).nextReorder = s.nextReorder := rfl
@[simp] theorem State.removeEntry_faults (st handle : Nat) : (s.removeEntry st handle).faults = s.faults := rfl
@[simp] theorem State.removeEntry_callouts (st handle : Nat) : (s.removeEntry st handle).callouts = s.callouts := rfl
@[simp] theorem State.removeEntry_nextCallout (st handle : Nat) : (s.removeEntry st handle).nextCallout = s.nextCallout := rfl
@[simp] theorem State.removeEntry_pendingFaults (st handle : Nat) : (s.removeEntry st handle).pendingFaults = s.pendingFaults := rfl
@[simp] theorem State.removeEntry_policy (st handle : Nat) : (s.removeEntry st handle).policy = s.policy := rfl
@[simp] theorem State.removeEntry_clock (st handle : Nat) : (s.removeEntry st handle).clock = s.clock := rfl
@[simp] theorem State.removeEntry_counters (st handle : Nat) : (s.removeEntry st handle).counters = s.counters := rfl
@[simp] theorem State.removeEntry_expiries (st handle : Nat) : (s.removeEntry st handle).expiries = s.expiries := rfl
@[simp] theorem State.removeEntry_choices (st handle : Nat) : (s.removeEntry st handle).choices = s.choices := rfl
@[simp] theorem State.removeEntry_pending (st handle : Nat) : (s.removeEntry st handle).pending = s.pending := rfl

/-! ### updateJob -/

@[simp] theorem State.updateJob_resetHeld (handle : Nat) (f : Job → Job) : (s.updateJob handle f).resetHeld = s.resetHeld := rfl
@[simp] theorem State.updateJob_rate (handle : Nat) (f : Job → Job) : (s.updateJob handle f).rate = s.rate := rfl
@[simp] theorem State.updateJob_rx (handle : Nat) (f : Job → Job) : (s.updateJob handle f).rx = s.rx := rfl
@[simp] theorem State.updateJob_requests (handle : Nat) (f : Job → Job) : (s.updateJob handle f).requests = s.requests := rfl
@[simp] theorem State.updateJob_overflow (handle : Nat) (f : Job → Job) : (s.updateJob handle f).overflow = s.overflow := rfl
@[simp] theorem State.updateJob_txd (handle : Nat) (f : Job → Job) : (s.updateJob handle f).txd = s.txd := rfl
@[simp] theorem State.updateJob_replies (handle : Nat) (f : Job → Job) : (s.updateJob handle f).replies = s.replies := rfl
@[simp] theorem State.updateJob_notices (handle : Nat) (f : Job → Job) : (s.updateJob handle f).notices = s.notices := rfl
@[simp] theorem State.updateJob_mask (handle : Nat) (f : Job → Job) : (s.updateJob handle f).mask = s.mask := rfl
@[simp] theorem State.updateJob_lost (handle : Nat) (f : Job → Job) : (s.updateJob handle f).lost = s.lost := rfl
@[simp] theorem State.updateJob_risers (handle : Nat) (f : Job → Job) : (s.updateJob handle f).risers = s.risers := rfl
@[simp] theorem State.updateJob_links (handle : Nat) (f : Job → Job) : (s.updateJob handle f).links = s.links := rfl
@[simp] theorem State.updateJob_stations (handle : Nat) (f : Job → Job) : (s.updateJob handle f).stations = s.stations := rfl
@[simp] theorem State.updateJob_generations (handle : Nat) (f : Job → Job) : (s.updateJob handle f).generations = s.generations := rfl
@[simp] theorem State.updateJob_partitions (handle : Nat) (f : Job → Job) : (s.updateJob handle f).partitions = s.partitions := rfl
@[simp] theorem State.updateJob_startWindow (handle : Nat) (f : Job → Job) : (s.updateJob handle f).startWindow = s.startWindow := rfl
@[simp] theorem State.updateJob_abandonWindow (handle : Nat) (f : Job → Job) : (s.updateJob handle f).abandonWindow = s.abandonWindow := rfl
@[simp] theorem State.updateJob_rates (handle : Nat) (f : Job → Job) : (s.updateJob handle f).rates = s.rates := rfl
@[simp] theorem State.updateJob_tenants (handle : Nat) (f : Job → Job) : (s.updateJob handle f).tenants = s.tenants := rfl
@[simp] theorem State.updateJob_users (handle : Nat) (f : Job → Job) : (s.updateJob handle f).users = s.users := rfl
@[simp] theorem State.updateJob_consumables (handle : Nat) (f : Job → Job) : (s.updateJob handle f).consumables = s.consumables := rfl
@[simp] theorem State.updateJob_reorders (handle : Nat) (f : Job → Job) : (s.updateJob handle f).reorders = s.reorders := rfl
@[simp] theorem State.updateJob_nextReorder (handle : Nat) (f : Job → Job) : (s.updateJob handle f).nextReorder = s.nextReorder := rfl
@[simp] theorem State.updateJob_faults (handle : Nat) (f : Job → Job) : (s.updateJob handle f).faults = s.faults := rfl
@[simp] theorem State.updateJob_callouts (handle : Nat) (f : Job → Job) : (s.updateJob handle f).callouts = s.callouts := rfl
@[simp] theorem State.updateJob_nextCallout (handle : Nat) (f : Job → Job) : (s.updateJob handle f).nextCallout = s.nextCallout := rfl
@[simp] theorem State.updateJob_pendingFaults (handle : Nat) (f : Job → Job) : (s.updateJob handle f).pendingFaults = s.pendingFaults := rfl
@[simp] theorem State.updateJob_policy (handle : Nat) (f : Job → Job) : (s.updateJob handle f).policy = s.policy := rfl
@[simp] theorem State.updateJob_clock (handle : Nat) (f : Job → Job) : (s.updateJob handle f).clock = s.clock := rfl
@[simp] theorem State.updateJob_counters (handle : Nat) (f : Job → Job) : (s.updateJob handle f).counters = s.counters := rfl
@[simp] theorem State.updateJob_expiries (handle : Nat) (f : Job → Job) : (s.updateJob handle f).expiries = s.expiries := rfl
@[simp] theorem State.updateJob_choices (handle : Nat) (f : Job → Job) : (s.updateJob handle f).choices = s.choices := rfl
@[simp] theorem State.updateJob_pending (handle : Nat) (f : Job → Job) : (s.updateJob handle f).pending = s.pending := rfl

/-! ### setGeneration -/

@[simp] theorem State.setGeneration_resetHeld (slot g : Nat) : (s.setGeneration slot g).resetHeld = s.resetHeld := rfl
@[simp] theorem State.setGeneration_rate (slot g : Nat) : (s.setGeneration slot g).rate = s.rate := rfl
@[simp] theorem State.setGeneration_rx (slot g : Nat) : (s.setGeneration slot g).rx = s.rx := rfl
@[simp] theorem State.setGeneration_requests (slot g : Nat) : (s.setGeneration slot g).requests = s.requests := rfl
@[simp] theorem State.setGeneration_overflow (slot g : Nat) : (s.setGeneration slot g).overflow = s.overflow := rfl
@[simp] theorem State.setGeneration_txd (slot g : Nat) : (s.setGeneration slot g).txd = s.txd := rfl
@[simp] theorem State.setGeneration_replies (slot g : Nat) : (s.setGeneration slot g).replies = s.replies := rfl
@[simp] theorem State.setGeneration_notices (slot g : Nat) : (s.setGeneration slot g).notices = s.notices := rfl
@[simp] theorem State.setGeneration_mask (slot g : Nat) : (s.setGeneration slot g).mask = s.mask := rfl
@[simp] theorem State.setGeneration_lost (slot g : Nat) : (s.setGeneration slot g).lost = s.lost := rfl
@[simp] theorem State.setGeneration_risers (slot g : Nat) : (s.setGeneration slot g).risers = s.risers := rfl
@[simp] theorem State.setGeneration_links (slot g : Nat) : (s.setGeneration slot g).links = s.links := rfl
@[simp] theorem State.setGeneration_stations (slot g : Nat) : (s.setGeneration slot g).stations = s.stations := rfl
@[simp] theorem State.setGeneration_jobs (slot g : Nat) : (s.setGeneration slot g).jobs = s.jobs := rfl
@[simp] theorem State.setGeneration_partitions (slot g : Nat) : (s.setGeneration slot g).partitions = s.partitions := rfl
@[simp] theorem State.setGeneration_startWindow (slot g : Nat) : (s.setGeneration slot g).startWindow = s.startWindow := rfl
@[simp] theorem State.setGeneration_abandonWindow (slot g : Nat) : (s.setGeneration slot g).abandonWindow = s.abandonWindow := rfl
@[simp] theorem State.setGeneration_rates (slot g : Nat) : (s.setGeneration slot g).rates = s.rates := rfl
@[simp] theorem State.setGeneration_tenants (slot g : Nat) : (s.setGeneration slot g).tenants = s.tenants := rfl
@[simp] theorem State.setGeneration_users (slot g : Nat) : (s.setGeneration slot g).users = s.users := rfl
@[simp] theorem State.setGeneration_consumables (slot g : Nat) : (s.setGeneration slot g).consumables = s.consumables := rfl
@[simp] theorem State.setGeneration_reorders (slot g : Nat) : (s.setGeneration slot g).reorders = s.reorders := rfl
@[simp] theorem State.setGeneration_nextReorder (slot g : Nat) : (s.setGeneration slot g).nextReorder = s.nextReorder := rfl
@[simp] theorem State.setGeneration_faults (slot g : Nat) : (s.setGeneration slot g).faults = s.faults := rfl
@[simp] theorem State.setGeneration_callouts (slot g : Nat) : (s.setGeneration slot g).callouts = s.callouts := rfl
@[simp] theorem State.setGeneration_nextCallout (slot g : Nat) : (s.setGeneration slot g).nextCallout = s.nextCallout := rfl
@[simp] theorem State.setGeneration_pendingFaults (slot g : Nat) : (s.setGeneration slot g).pendingFaults = s.pendingFaults := rfl
@[simp] theorem State.setGeneration_policy (slot g : Nat) : (s.setGeneration slot g).policy = s.policy := rfl
@[simp] theorem State.setGeneration_clock (slot g : Nat) : (s.setGeneration slot g).clock = s.clock := rfl
@[simp] theorem State.setGeneration_counters (slot g : Nat) : (s.setGeneration slot g).counters = s.counters := rfl
@[simp] theorem State.setGeneration_expiries (slot g : Nat) : (s.setGeneration slot g).expiries = s.expiries := rfl
@[simp] theorem State.setGeneration_choices (slot g : Nat) : (s.setGeneration slot g).choices = s.choices := rfl
@[simp] theorem State.setGeneration_pending (slot g : Nat) : (s.setGeneration slot g).pending = s.pending := rfl

/-! ### updateRiser -/

@[simp] theorem State.updateRiser_resetHeld (r : Nat) (f : Riser → Riser) : (s.updateRiser r f).resetHeld = s.resetHeld := rfl
@[simp] theorem State.updateRiser_rate (r : Nat) (f : Riser → Riser) : (s.updateRiser r f).rate = s.rate := rfl
@[simp] theorem State.updateRiser_rx (r : Nat) (f : Riser → Riser) : (s.updateRiser r f).rx = s.rx := rfl
@[simp] theorem State.updateRiser_requests (r : Nat) (f : Riser → Riser) : (s.updateRiser r f).requests = s.requests := rfl
@[simp] theorem State.updateRiser_overflow (r : Nat) (f : Riser → Riser) : (s.updateRiser r f).overflow = s.overflow := rfl
@[simp] theorem State.updateRiser_txd (r : Nat) (f : Riser → Riser) : (s.updateRiser r f).txd = s.txd := rfl
@[simp] theorem State.updateRiser_replies (r : Nat) (f : Riser → Riser) : (s.updateRiser r f).replies = s.replies := rfl
@[simp] theorem State.updateRiser_notices (r : Nat) (f : Riser → Riser) : (s.updateRiser r f).notices = s.notices := rfl
@[simp] theorem State.updateRiser_mask (r : Nat) (f : Riser → Riser) : (s.updateRiser r f).mask = s.mask := rfl
@[simp] theorem State.updateRiser_lost (r : Nat) (f : Riser → Riser) : (s.updateRiser r f).lost = s.lost := rfl
@[simp] theorem State.updateRiser_links (r : Nat) (f : Riser → Riser) : (s.updateRiser r f).links = s.links := rfl
@[simp] theorem State.updateRiser_stations (r : Nat) (f : Riser → Riser) : (s.updateRiser r f).stations = s.stations := rfl
@[simp] theorem State.updateRiser_jobs (r : Nat) (f : Riser → Riser) : (s.updateRiser r f).jobs = s.jobs := rfl
@[simp] theorem State.updateRiser_generations (r : Nat) (f : Riser → Riser) : (s.updateRiser r f).generations = s.generations := rfl
@[simp] theorem State.updateRiser_partitions (r : Nat) (f : Riser → Riser) : (s.updateRiser r f).partitions = s.partitions := rfl
@[simp] theorem State.updateRiser_startWindow (r : Nat) (f : Riser → Riser) : (s.updateRiser r f).startWindow = s.startWindow := rfl
@[simp] theorem State.updateRiser_abandonWindow (r : Nat) (f : Riser → Riser) : (s.updateRiser r f).abandonWindow = s.abandonWindow := rfl
@[simp] theorem State.updateRiser_rates (r : Nat) (f : Riser → Riser) : (s.updateRiser r f).rates = s.rates := rfl
@[simp] theorem State.updateRiser_tenants (r : Nat) (f : Riser → Riser) : (s.updateRiser r f).tenants = s.tenants := rfl
@[simp] theorem State.updateRiser_users (r : Nat) (f : Riser → Riser) : (s.updateRiser r f).users = s.users := rfl
@[simp] theorem State.updateRiser_consumables (r : Nat) (f : Riser → Riser) : (s.updateRiser r f).consumables = s.consumables := rfl
@[simp] theorem State.updateRiser_reorders (r : Nat) (f : Riser → Riser) : (s.updateRiser r f).reorders = s.reorders := rfl
@[simp] theorem State.updateRiser_nextReorder (r : Nat) (f : Riser → Riser) : (s.updateRiser r f).nextReorder = s.nextReorder := rfl
@[simp] theorem State.updateRiser_faults (r : Nat) (f : Riser → Riser) : (s.updateRiser r f).faults = s.faults := rfl
@[simp] theorem State.updateRiser_callouts (r : Nat) (f : Riser → Riser) : (s.updateRiser r f).callouts = s.callouts := rfl
@[simp] theorem State.updateRiser_nextCallout (r : Nat) (f : Riser → Riser) : (s.updateRiser r f).nextCallout = s.nextCallout := rfl
@[simp] theorem State.updateRiser_pendingFaults (r : Nat) (f : Riser → Riser) : (s.updateRiser r f).pendingFaults = s.pendingFaults := rfl
@[simp] theorem State.updateRiser_policy (r : Nat) (f : Riser → Riser) : (s.updateRiser r f).policy = s.policy := rfl
@[simp] theorem State.updateRiser_clock (r : Nat) (f : Riser → Riser) : (s.updateRiser r f).clock = s.clock := rfl
@[simp] theorem State.updateRiser_counters (r : Nat) (f : Riser → Riser) : (s.updateRiser r f).counters = s.counters := rfl
@[simp] theorem State.updateRiser_expiries (r : Nat) (f : Riser → Riser) : (s.updateRiser r f).expiries = s.expiries := rfl
@[simp] theorem State.updateRiser_choices (r : Nat) (f : Riser → Riser) : (s.updateRiser r f).choices = s.choices := rfl
@[simp] theorem State.updateRiser_pending (r : Nat) (f : Riser → Riser) : (s.updateRiser r f).pending = s.pending := rfl

/-! ### updateLink -/

@[simp] theorem State.updateLink_resetHeld (st : Nat) (f : Link → Link) : (s.updateLink st f).resetHeld = s.resetHeld := rfl
@[simp] theorem State.updateLink_rate (st : Nat) (f : Link → Link) : (s.updateLink st f).rate = s.rate := rfl
@[simp] theorem State.updateLink_rx (st : Nat) (f : Link → Link) : (s.updateLink st f).rx = s.rx := rfl
@[simp] theorem State.updateLink_requests (st : Nat) (f : Link → Link) : (s.updateLink st f).requests = s.requests := rfl
@[simp] theorem State.updateLink_overflow (st : Nat) (f : Link → Link) : (s.updateLink st f).overflow = s.overflow := rfl
@[simp] theorem State.updateLink_txd (st : Nat) (f : Link → Link) : (s.updateLink st f).txd = s.txd := rfl
@[simp] theorem State.updateLink_replies (st : Nat) (f : Link → Link) : (s.updateLink st f).replies = s.replies := rfl
@[simp] theorem State.updateLink_notices (st : Nat) (f : Link → Link) : (s.updateLink st f).notices = s.notices := rfl
@[simp] theorem State.updateLink_mask (st : Nat) (f : Link → Link) : (s.updateLink st f).mask = s.mask := rfl
@[simp] theorem State.updateLink_lost (st : Nat) (f : Link → Link) : (s.updateLink st f).lost = s.lost := rfl
@[simp] theorem State.updateLink_risers (st : Nat) (f : Link → Link) : (s.updateLink st f).risers = s.risers := rfl
@[simp] theorem State.updateLink_stations (st : Nat) (f : Link → Link) : (s.updateLink st f).stations = s.stations := rfl
@[simp] theorem State.updateLink_jobs (st : Nat) (f : Link → Link) : (s.updateLink st f).jobs = s.jobs := rfl
@[simp] theorem State.updateLink_generations (st : Nat) (f : Link → Link) : (s.updateLink st f).generations = s.generations := rfl
@[simp] theorem State.updateLink_partitions (st : Nat) (f : Link → Link) : (s.updateLink st f).partitions = s.partitions := rfl
@[simp] theorem State.updateLink_startWindow (st : Nat) (f : Link → Link) : (s.updateLink st f).startWindow = s.startWindow := rfl
@[simp] theorem State.updateLink_abandonWindow (st : Nat) (f : Link → Link) : (s.updateLink st f).abandonWindow = s.abandonWindow := rfl
@[simp] theorem State.updateLink_rates (st : Nat) (f : Link → Link) : (s.updateLink st f).rates = s.rates := rfl
@[simp] theorem State.updateLink_tenants (st : Nat) (f : Link → Link) : (s.updateLink st f).tenants = s.tenants := rfl
@[simp] theorem State.updateLink_users (st : Nat) (f : Link → Link) : (s.updateLink st f).users = s.users := rfl
@[simp] theorem State.updateLink_consumables (st : Nat) (f : Link → Link) : (s.updateLink st f).consumables = s.consumables := rfl
@[simp] theorem State.updateLink_reorders (st : Nat) (f : Link → Link) : (s.updateLink st f).reorders = s.reorders := rfl
@[simp] theorem State.updateLink_nextReorder (st : Nat) (f : Link → Link) : (s.updateLink st f).nextReorder = s.nextReorder := rfl
@[simp] theorem State.updateLink_faults (st : Nat) (f : Link → Link) : (s.updateLink st f).faults = s.faults := rfl
@[simp] theorem State.updateLink_callouts (st : Nat) (f : Link → Link) : (s.updateLink st f).callouts = s.callouts := rfl
@[simp] theorem State.updateLink_nextCallout (st : Nat) (f : Link → Link) : (s.updateLink st f).nextCallout = s.nextCallout := rfl
@[simp] theorem State.updateLink_pendingFaults (st : Nat) (f : Link → Link) : (s.updateLink st f).pendingFaults = s.pendingFaults := rfl
@[simp] theorem State.updateLink_policy (st : Nat) (f : Link → Link) : (s.updateLink st f).policy = s.policy := rfl
@[simp] theorem State.updateLink_clock (st : Nat) (f : Link → Link) : (s.updateLink st f).clock = s.clock := rfl
@[simp] theorem State.updateLink_counters (st : Nat) (f : Link → Link) : (s.updateLink st f).counters = s.counters := rfl
@[simp] theorem State.updateLink_expiries (st : Nat) (f : Link → Link) : (s.updateLink st f).expiries = s.expiries := rfl
@[simp] theorem State.updateLink_choices (st : Nat) (f : Link → Link) : (s.updateLink st f).choices = s.choices := rfl
@[simp] theorem State.updateLink_pending (st : Nat) (f : Link → Link) : (s.updateLink st f).pending = s.pending := rfl

/-! ### handCommand -/

@[simp] theorem State.handCommand_resetHeld (st : Nat) (c : Command) : (s.handCommand st c).resetHeld = s.resetHeld := rfl
@[simp] theorem State.handCommand_rate (st : Nat) (c : Command) : (s.handCommand st c).rate = s.rate := rfl
@[simp] theorem State.handCommand_rx (st : Nat) (c : Command) : (s.handCommand st c).rx = s.rx := rfl
@[simp] theorem State.handCommand_requests (st : Nat) (c : Command) : (s.handCommand st c).requests = s.requests := rfl
@[simp] theorem State.handCommand_overflow (st : Nat) (c : Command) : (s.handCommand st c).overflow = s.overflow := rfl
@[simp] theorem State.handCommand_txd (st : Nat) (c : Command) : (s.handCommand st c).txd = s.txd := rfl
@[simp] theorem State.handCommand_replies (st : Nat) (c : Command) : (s.handCommand st c).replies = s.replies := rfl
@[simp] theorem State.handCommand_notices (st : Nat) (c : Command) : (s.handCommand st c).notices = s.notices := rfl
@[simp] theorem State.handCommand_mask (st : Nat) (c : Command) : (s.handCommand st c).mask = s.mask := rfl
@[simp] theorem State.handCommand_lost (st : Nat) (c : Command) : (s.handCommand st c).lost = s.lost := rfl
@[simp] theorem State.handCommand_risers (st : Nat) (c : Command) : (s.handCommand st c).risers = s.risers := rfl
@[simp] theorem State.handCommand_stations (st : Nat) (c : Command) : (s.handCommand st c).stations = s.stations := rfl
@[simp] theorem State.handCommand_jobs (st : Nat) (c : Command) : (s.handCommand st c).jobs = s.jobs := rfl
@[simp] theorem State.handCommand_generations (st : Nat) (c : Command) : (s.handCommand st c).generations = s.generations := rfl
@[simp] theorem State.handCommand_partitions (st : Nat) (c : Command) : (s.handCommand st c).partitions = s.partitions := rfl
@[simp] theorem State.handCommand_startWindow (st : Nat) (c : Command) : (s.handCommand st c).startWindow = s.startWindow := rfl
@[simp] theorem State.handCommand_abandonWindow (st : Nat) (c : Command) : (s.handCommand st c).abandonWindow = s.abandonWindow := rfl
@[simp] theorem State.handCommand_rates (st : Nat) (c : Command) : (s.handCommand st c).rates = s.rates := rfl
@[simp] theorem State.handCommand_tenants (st : Nat) (c : Command) : (s.handCommand st c).tenants = s.tenants := rfl
@[simp] theorem State.handCommand_users (st : Nat) (c : Command) : (s.handCommand st c).users = s.users := rfl
@[simp] theorem State.handCommand_consumables (st : Nat) (c : Command) : (s.handCommand st c).consumables = s.consumables := rfl
@[simp] theorem State.handCommand_reorders (st : Nat) (c : Command) : (s.handCommand st c).reorders = s.reorders := rfl
@[simp] theorem State.handCommand_nextReorder (st : Nat) (c : Command) : (s.handCommand st c).nextReorder = s.nextReorder := rfl
@[simp] theorem State.handCommand_faults (st : Nat) (c : Command) : (s.handCommand st c).faults = s.faults := rfl
@[simp] theorem State.handCommand_callouts (st : Nat) (c : Command) : (s.handCommand st c).callouts = s.callouts := rfl
@[simp] theorem State.handCommand_nextCallout (st : Nat) (c : Command) : (s.handCommand st c).nextCallout = s.nextCallout := rfl
@[simp] theorem State.handCommand_pendingFaults (st : Nat) (c : Command) : (s.handCommand st c).pendingFaults = s.pendingFaults := rfl
@[simp] theorem State.handCommand_policy (st : Nat) (c : Command) : (s.handCommand st c).policy = s.policy := rfl
@[simp] theorem State.handCommand_clock (st : Nat) (c : Command) : (s.handCommand st c).clock = s.clock := rfl
@[simp] theorem State.handCommand_counters (st : Nat) (c : Command) : (s.handCommand st c).counters = s.counters := rfl
@[simp] theorem State.handCommand_expiries (st : Nat) (c : Command) : (s.handCommand st c).expiries = s.expiries := rfl
@[simp] theorem State.handCommand_choices (st : Nat) (c : Command) : (s.handCommand st c).choices = s.choices := rfl
@[simp] theorem State.handCommand_pending (st : Nat) (c : Command) : (s.handCommand st c).pending = s.pending := rfl

/-! ### handShow -/

@[simp] theorem State.handShow_resetHeld (st : Nat) (sh : Show) : (s.handShow st sh).resetHeld = s.resetHeld := rfl
@[simp] theorem State.handShow_rate (st : Nat) (sh : Show) : (s.handShow st sh).rate = s.rate := rfl
@[simp] theorem State.handShow_rx (st : Nat) (sh : Show) : (s.handShow st sh).rx = s.rx := rfl
@[simp] theorem State.handShow_requests (st : Nat) (sh : Show) : (s.handShow st sh).requests = s.requests := rfl
@[simp] theorem State.handShow_overflow (st : Nat) (sh : Show) : (s.handShow st sh).overflow = s.overflow := rfl
@[simp] theorem State.handShow_txd (st : Nat) (sh : Show) : (s.handShow st sh).txd = s.txd := rfl
@[simp] theorem State.handShow_replies (st : Nat) (sh : Show) : (s.handShow st sh).replies = s.replies := rfl
@[simp] theorem State.handShow_notices (st : Nat) (sh : Show) : (s.handShow st sh).notices = s.notices := rfl
@[simp] theorem State.handShow_mask (st : Nat) (sh : Show) : (s.handShow st sh).mask = s.mask := rfl
@[simp] theorem State.handShow_lost (st : Nat) (sh : Show) : (s.handShow st sh).lost = s.lost := rfl
@[simp] theorem State.handShow_risers (st : Nat) (sh : Show) : (s.handShow st sh).risers = s.risers := rfl
@[simp] theorem State.handShow_stations (st : Nat) (sh : Show) : (s.handShow st sh).stations = s.stations := rfl
@[simp] theorem State.handShow_jobs (st : Nat) (sh : Show) : (s.handShow st sh).jobs = s.jobs := rfl
@[simp] theorem State.handShow_generations (st : Nat) (sh : Show) : (s.handShow st sh).generations = s.generations := rfl
@[simp] theorem State.handShow_partitions (st : Nat) (sh : Show) : (s.handShow st sh).partitions = s.partitions := rfl
@[simp] theorem State.handShow_startWindow (st : Nat) (sh : Show) : (s.handShow st sh).startWindow = s.startWindow := rfl
@[simp] theorem State.handShow_abandonWindow (st : Nat) (sh : Show) : (s.handShow st sh).abandonWindow = s.abandonWindow := rfl
@[simp] theorem State.handShow_rates (st : Nat) (sh : Show) : (s.handShow st sh).rates = s.rates := rfl
@[simp] theorem State.handShow_tenants (st : Nat) (sh : Show) : (s.handShow st sh).tenants = s.tenants := rfl
@[simp] theorem State.handShow_users (st : Nat) (sh : Show) : (s.handShow st sh).users = s.users := rfl
@[simp] theorem State.handShow_consumables (st : Nat) (sh : Show) : (s.handShow st sh).consumables = s.consumables := rfl
@[simp] theorem State.handShow_reorders (st : Nat) (sh : Show) : (s.handShow st sh).reorders = s.reorders := rfl
@[simp] theorem State.handShow_nextReorder (st : Nat) (sh : Show) : (s.handShow st sh).nextReorder = s.nextReorder := rfl
@[simp] theorem State.handShow_faults (st : Nat) (sh : Show) : (s.handShow st sh).faults = s.faults := rfl
@[simp] theorem State.handShow_callouts (st : Nat) (sh : Show) : (s.handShow st sh).callouts = s.callouts := rfl
@[simp] theorem State.handShow_nextCallout (st : Nat) (sh : Show) : (s.handShow st sh).nextCallout = s.nextCallout := rfl
@[simp] theorem State.handShow_pendingFaults (st : Nat) (sh : Show) : (s.handShow st sh).pendingFaults = s.pendingFaults := rfl
@[simp] theorem State.handShow_policy (st : Nat) (sh : Show) : (s.handShow st sh).policy = s.policy := rfl
@[simp] theorem State.handShow_clock (st : Nat) (sh : Show) : (s.handShow st sh).clock = s.clock := rfl
@[simp] theorem State.handShow_counters (st : Nat) (sh : Show) : (s.handShow st sh).counters = s.counters := rfl
@[simp] theorem State.handShow_expiries (st : Nat) (sh : Show) : (s.handShow st sh).expiries = s.expiries := rfl
@[simp] theorem State.handShow_choices (st : Nat) (sh : Show) : (s.handShow st sh).choices = s.choices := rfl
@[simp] theorem State.handShow_pending (st : Nat) (sh : Show) : (s.handShow st sh).pending = s.pending := rfl

/-! ### setUserAccount -/

@[simp] theorem State.setUserAccount_resetHeld (n : Nat) (a : Account) : (s.setUserAccount n a).resetHeld = s.resetHeld := rfl
@[simp] theorem State.setUserAccount_rate (n : Nat) (a : Account) : (s.setUserAccount n a).rate = s.rate := rfl
@[simp] theorem State.setUserAccount_rx (n : Nat) (a : Account) : (s.setUserAccount n a).rx = s.rx := rfl
@[simp] theorem State.setUserAccount_requests (n : Nat) (a : Account) : (s.setUserAccount n a).requests = s.requests := rfl
@[simp] theorem State.setUserAccount_overflow (n : Nat) (a : Account) : (s.setUserAccount n a).overflow = s.overflow := rfl
@[simp] theorem State.setUserAccount_txd (n : Nat) (a : Account) : (s.setUserAccount n a).txd = s.txd := rfl
@[simp] theorem State.setUserAccount_replies (n : Nat) (a : Account) : (s.setUserAccount n a).replies = s.replies := rfl
@[simp] theorem State.setUserAccount_notices (n : Nat) (a : Account) : (s.setUserAccount n a).notices = s.notices := rfl
@[simp] theorem State.setUserAccount_mask (n : Nat) (a : Account) : (s.setUserAccount n a).mask = s.mask := rfl
@[simp] theorem State.setUserAccount_lost (n : Nat) (a : Account) : (s.setUserAccount n a).lost = s.lost := rfl
@[simp] theorem State.setUserAccount_risers (n : Nat) (a : Account) : (s.setUserAccount n a).risers = s.risers := rfl
@[simp] theorem State.setUserAccount_links (n : Nat) (a : Account) : (s.setUserAccount n a).links = s.links := rfl
@[simp] theorem State.setUserAccount_stations (n : Nat) (a : Account) : (s.setUserAccount n a).stations = s.stations := rfl
@[simp] theorem State.setUserAccount_jobs (n : Nat) (a : Account) : (s.setUserAccount n a).jobs = s.jobs := rfl
@[simp] theorem State.setUserAccount_generations (n : Nat) (a : Account) : (s.setUserAccount n a).generations = s.generations := rfl
@[simp] theorem State.setUserAccount_partitions (n : Nat) (a : Account) : (s.setUserAccount n a).partitions = s.partitions := rfl
@[simp] theorem State.setUserAccount_startWindow (n : Nat) (a : Account) : (s.setUserAccount n a).startWindow = s.startWindow := rfl
@[simp] theorem State.setUserAccount_abandonWindow (n : Nat) (a : Account) : (s.setUserAccount n a).abandonWindow = s.abandonWindow := rfl
@[simp] theorem State.setUserAccount_rates (n : Nat) (a : Account) : (s.setUserAccount n a).rates = s.rates := rfl
@[simp] theorem State.setUserAccount_tenants (n : Nat) (a : Account) : (s.setUserAccount n a).tenants = s.tenants := rfl
@[simp] theorem State.setUserAccount_consumables (n : Nat) (a : Account) : (s.setUserAccount n a).consumables = s.consumables := rfl
@[simp] theorem State.setUserAccount_reorders (n : Nat) (a : Account) : (s.setUserAccount n a).reorders = s.reorders := rfl
@[simp] theorem State.setUserAccount_nextReorder (n : Nat) (a : Account) : (s.setUserAccount n a).nextReorder = s.nextReorder := rfl
@[simp] theorem State.setUserAccount_faults (n : Nat) (a : Account) : (s.setUserAccount n a).faults = s.faults := rfl
@[simp] theorem State.setUserAccount_callouts (n : Nat) (a : Account) : (s.setUserAccount n a).callouts = s.callouts := rfl
@[simp] theorem State.setUserAccount_nextCallout (n : Nat) (a : Account) : (s.setUserAccount n a).nextCallout = s.nextCallout := rfl
@[simp] theorem State.setUserAccount_pendingFaults (n : Nat) (a : Account) : (s.setUserAccount n a).pendingFaults = s.pendingFaults := rfl
@[simp] theorem State.setUserAccount_policy (n : Nat) (a : Account) : (s.setUserAccount n a).policy = s.policy := rfl
@[simp] theorem State.setUserAccount_clock (n : Nat) (a : Account) : (s.setUserAccount n a).clock = s.clock := rfl
@[simp] theorem State.setUserAccount_counters (n : Nat) (a : Account) : (s.setUserAccount n a).counters = s.counters := rfl
@[simp] theorem State.setUserAccount_expiries (n : Nat) (a : Account) : (s.setUserAccount n a).expiries = s.expiries := rfl
@[simp] theorem State.setUserAccount_choices (n : Nat) (a : Account) : (s.setUserAccount n a).choices = s.choices := rfl
@[simp] theorem State.setUserAccount_pending (n : Nat) (a : Account) : (s.setUserAccount n a).pending = s.pending := rfl

/-! ### setTenantAccount -/

@[simp] theorem State.setTenantAccount_resetHeld (n : Nat) (a : Account) : (s.setTenantAccount n a).resetHeld = s.resetHeld := rfl
@[simp] theorem State.setTenantAccount_rate (n : Nat) (a : Account) : (s.setTenantAccount n a).rate = s.rate := rfl
@[simp] theorem State.setTenantAccount_rx (n : Nat) (a : Account) : (s.setTenantAccount n a).rx = s.rx := rfl
@[simp] theorem State.setTenantAccount_requests (n : Nat) (a : Account) : (s.setTenantAccount n a).requests = s.requests := rfl
@[simp] theorem State.setTenantAccount_overflow (n : Nat) (a : Account) : (s.setTenantAccount n a).overflow = s.overflow := rfl
@[simp] theorem State.setTenantAccount_txd (n : Nat) (a : Account) : (s.setTenantAccount n a).txd = s.txd := rfl
@[simp] theorem State.setTenantAccount_replies (n : Nat) (a : Account) : (s.setTenantAccount n a).replies = s.replies := rfl
@[simp] theorem State.setTenantAccount_notices (n : Nat) (a : Account) : (s.setTenantAccount n a).notices = s.notices := rfl
@[simp] theorem State.setTenantAccount_mask (n : Nat) (a : Account) : (s.setTenantAccount n a).mask = s.mask := rfl
@[simp] theorem State.setTenantAccount_lost (n : Nat) (a : Account) : (s.setTenantAccount n a).lost = s.lost := rfl
@[simp] theorem State.setTenantAccount_risers (n : Nat) (a : Account) : (s.setTenantAccount n a).risers = s.risers := rfl
@[simp] theorem State.setTenantAccount_links (n : Nat) (a : Account) : (s.setTenantAccount n a).links = s.links := rfl
@[simp] theorem State.setTenantAccount_stations (n : Nat) (a : Account) : (s.setTenantAccount n a).stations = s.stations := rfl
@[simp] theorem State.setTenantAccount_jobs (n : Nat) (a : Account) : (s.setTenantAccount n a).jobs = s.jobs := rfl
@[simp] theorem State.setTenantAccount_generations (n : Nat) (a : Account) : (s.setTenantAccount n a).generations = s.generations := rfl
@[simp] theorem State.setTenantAccount_partitions (n : Nat) (a : Account) : (s.setTenantAccount n a).partitions = s.partitions := rfl
@[simp] theorem State.setTenantAccount_startWindow (n : Nat) (a : Account) : (s.setTenantAccount n a).startWindow = s.startWindow := rfl
@[simp] theorem State.setTenantAccount_abandonWindow (n : Nat) (a : Account) : (s.setTenantAccount n a).abandonWindow = s.abandonWindow := rfl
@[simp] theorem State.setTenantAccount_rates (n : Nat) (a : Account) : (s.setTenantAccount n a).rates = s.rates := rfl
@[simp] theorem State.setTenantAccount_users (n : Nat) (a : Account) : (s.setTenantAccount n a).users = s.users := rfl
@[simp] theorem State.setTenantAccount_consumables (n : Nat) (a : Account) : (s.setTenantAccount n a).consumables = s.consumables := rfl
@[simp] theorem State.setTenantAccount_reorders (n : Nat) (a : Account) : (s.setTenantAccount n a).reorders = s.reorders := rfl
@[simp] theorem State.setTenantAccount_nextReorder (n : Nat) (a : Account) : (s.setTenantAccount n a).nextReorder = s.nextReorder := rfl
@[simp] theorem State.setTenantAccount_faults (n : Nat) (a : Account) : (s.setTenantAccount n a).faults = s.faults := rfl
@[simp] theorem State.setTenantAccount_callouts (n : Nat) (a : Account) : (s.setTenantAccount n a).callouts = s.callouts := rfl
@[simp] theorem State.setTenantAccount_nextCallout (n : Nat) (a : Account) : (s.setTenantAccount n a).nextCallout = s.nextCallout := rfl
@[simp] theorem State.setTenantAccount_pendingFaults (n : Nat) (a : Account) : (s.setTenantAccount n a).pendingFaults = s.pendingFaults := rfl
@[simp] theorem State.setTenantAccount_policy (n : Nat) (a : Account) : (s.setTenantAccount n a).policy = s.policy := rfl
@[simp] theorem State.setTenantAccount_clock (n : Nat) (a : Account) : (s.setTenantAccount n a).clock = s.clock := rfl
@[simp] theorem State.setTenantAccount_counters (n : Nat) (a : Account) : (s.setTenantAccount n a).counters = s.counters := rfl
@[simp] theorem State.setTenantAccount_expiries (n : Nat) (a : Account) : (s.setTenantAccount n a).expiries = s.expiries := rfl
@[simp] theorem State.setTenantAccount_choices (n : Nat) (a : Account) : (s.setTenantAccount n a).choices = s.choices := rfl
@[simp] theorem State.setTenantAccount_pending (n : Nat) (a : Account) : (s.setTenantAccount n a).pending = s.pending := rfl

/-! ### reserve -/

@[simp] theorem State.reserve_resetHeld (u t c : Nat) : (s.reserve u t c).resetHeld = s.resetHeld := rfl
@[simp] theorem State.reserve_rate (u t c : Nat) : (s.reserve u t c).rate = s.rate := rfl
@[simp] theorem State.reserve_rx (u t c : Nat) : (s.reserve u t c).rx = s.rx := rfl
@[simp] theorem State.reserve_requests (u t c : Nat) : (s.reserve u t c).requests = s.requests := rfl
@[simp] theorem State.reserve_overflow (u t c : Nat) : (s.reserve u t c).overflow = s.overflow := rfl
@[simp] theorem State.reserve_txd (u t c : Nat) : (s.reserve u t c).txd = s.txd := rfl
@[simp] theorem State.reserve_replies (u t c : Nat) : (s.reserve u t c).replies = s.replies := rfl
@[simp] theorem State.reserve_notices (u t c : Nat) : (s.reserve u t c).notices = s.notices := rfl
@[simp] theorem State.reserve_mask (u t c : Nat) : (s.reserve u t c).mask = s.mask := rfl
@[simp] theorem State.reserve_lost (u t c : Nat) : (s.reserve u t c).lost = s.lost := rfl
@[simp] theorem State.reserve_risers (u t c : Nat) : (s.reserve u t c).risers = s.risers := rfl
@[simp] theorem State.reserve_links (u t c : Nat) : (s.reserve u t c).links = s.links := rfl
@[simp] theorem State.reserve_stations (u t c : Nat) : (s.reserve u t c).stations = s.stations := rfl
@[simp] theorem State.reserve_jobs (u t c : Nat) : (s.reserve u t c).jobs = s.jobs := rfl
@[simp] theorem State.reserve_generations (u t c : Nat) : (s.reserve u t c).generations = s.generations := rfl
@[simp] theorem State.reserve_partitions (u t c : Nat) : (s.reserve u t c).partitions = s.partitions := rfl
@[simp] theorem State.reserve_startWindow (u t c : Nat) : (s.reserve u t c).startWindow = s.startWindow := rfl
@[simp] theorem State.reserve_abandonWindow (u t c : Nat) : (s.reserve u t c).abandonWindow = s.abandonWindow := rfl
@[simp] theorem State.reserve_rates (u t c : Nat) : (s.reserve u t c).rates = s.rates := rfl
@[simp] theorem State.reserve_consumables (u t c : Nat) : (s.reserve u t c).consumables = s.consumables := rfl
@[simp] theorem State.reserve_reorders (u t c : Nat) : (s.reserve u t c).reorders = s.reorders := rfl
@[simp] theorem State.reserve_nextReorder (u t c : Nat) : (s.reserve u t c).nextReorder = s.nextReorder := rfl
@[simp] theorem State.reserve_faults (u t c : Nat) : (s.reserve u t c).faults = s.faults := rfl
@[simp] theorem State.reserve_callouts (u t c : Nat) : (s.reserve u t c).callouts = s.callouts := rfl
@[simp] theorem State.reserve_nextCallout (u t c : Nat) : (s.reserve u t c).nextCallout = s.nextCallout := rfl
@[simp] theorem State.reserve_pendingFaults (u t c : Nat) : (s.reserve u t c).pendingFaults = s.pendingFaults := rfl
@[simp] theorem State.reserve_policy (u t c : Nat) : (s.reserve u t c).policy = s.policy := rfl
@[simp] theorem State.reserve_clock (u t c : Nat) : (s.reserve u t c).clock = s.clock := rfl
@[simp] theorem State.reserve_counters (u t c : Nat) : (s.reserve u t c).counters = s.counters := rfl
@[simp] theorem State.reserve_expiries (u t c : Nat) : (s.reserve u t c).expiries = s.expiries := rfl
@[simp] theorem State.reserve_choices (u t c : Nat) : (s.reserve u t c).choices = s.choices := rfl
@[simp] theorem State.reserve_pending (u t c : Nat) : (s.reserve u t c).pending = s.pending := rfl

/-! ### unreserve -/

@[simp] theorem State.unreserve_resetHeld (u t c : Nat) : (s.unreserve u t c).resetHeld = s.resetHeld := rfl
@[simp] theorem State.unreserve_rate (u t c : Nat) : (s.unreserve u t c).rate = s.rate := rfl
@[simp] theorem State.unreserve_rx (u t c : Nat) : (s.unreserve u t c).rx = s.rx := rfl
@[simp] theorem State.unreserve_requests (u t c : Nat) : (s.unreserve u t c).requests = s.requests := rfl
@[simp] theorem State.unreserve_overflow (u t c : Nat) : (s.unreserve u t c).overflow = s.overflow := rfl
@[simp] theorem State.unreserve_txd (u t c : Nat) : (s.unreserve u t c).txd = s.txd := rfl
@[simp] theorem State.unreserve_replies (u t c : Nat) : (s.unreserve u t c).replies = s.replies := rfl
@[simp] theorem State.unreserve_notices (u t c : Nat) : (s.unreserve u t c).notices = s.notices := rfl
@[simp] theorem State.unreserve_mask (u t c : Nat) : (s.unreserve u t c).mask = s.mask := rfl
@[simp] theorem State.unreserve_lost (u t c : Nat) : (s.unreserve u t c).lost = s.lost := rfl
@[simp] theorem State.unreserve_risers (u t c : Nat) : (s.unreserve u t c).risers = s.risers := rfl
@[simp] theorem State.unreserve_links (u t c : Nat) : (s.unreserve u t c).links = s.links := rfl
@[simp] theorem State.unreserve_stations (u t c : Nat) : (s.unreserve u t c).stations = s.stations := rfl
@[simp] theorem State.unreserve_jobs (u t c : Nat) : (s.unreserve u t c).jobs = s.jobs := rfl
@[simp] theorem State.unreserve_generations (u t c : Nat) : (s.unreserve u t c).generations = s.generations := rfl
@[simp] theorem State.unreserve_partitions (u t c : Nat) : (s.unreserve u t c).partitions = s.partitions := rfl
@[simp] theorem State.unreserve_startWindow (u t c : Nat) : (s.unreserve u t c).startWindow = s.startWindow := rfl
@[simp] theorem State.unreserve_abandonWindow (u t c : Nat) : (s.unreserve u t c).abandonWindow = s.abandonWindow := rfl
@[simp] theorem State.unreserve_rates (u t c : Nat) : (s.unreserve u t c).rates = s.rates := rfl
@[simp] theorem State.unreserve_consumables (u t c : Nat) : (s.unreserve u t c).consumables = s.consumables := rfl
@[simp] theorem State.unreserve_reorders (u t c : Nat) : (s.unreserve u t c).reorders = s.reorders := rfl
@[simp] theorem State.unreserve_nextReorder (u t c : Nat) : (s.unreserve u t c).nextReorder = s.nextReorder := rfl
@[simp] theorem State.unreserve_faults (u t c : Nat) : (s.unreserve u t c).faults = s.faults := rfl
@[simp] theorem State.unreserve_callouts (u t c : Nat) : (s.unreserve u t c).callouts = s.callouts := rfl
@[simp] theorem State.unreserve_nextCallout (u t c : Nat) : (s.unreserve u t c).nextCallout = s.nextCallout := rfl
@[simp] theorem State.unreserve_pendingFaults (u t c : Nat) : (s.unreserve u t c).pendingFaults = s.pendingFaults := rfl
@[simp] theorem State.unreserve_policy (u t c : Nat) : (s.unreserve u t c).policy = s.policy := rfl
@[simp] theorem State.unreserve_clock (u t c : Nat) : (s.unreserve u t c).clock = s.clock := rfl
@[simp] theorem State.unreserve_counters (u t c : Nat) : (s.unreserve u t c).counters = s.counters := rfl
@[simp] theorem State.unreserve_expiries (u t c : Nat) : (s.unreserve u t c).expiries = s.expiries := rfl
@[simp] theorem State.unreserve_choices (u t c : Nat) : (s.unreserve u t c).choices = s.choices := rfl
@[simp] theorem State.unreserve_pending (u t c : Nat) : (s.unreserve u t c).pending = s.pending := rfl

/-! ### setSuppliesUsed -/

@[simp] theorem State.setSuppliesUsed_resetHeld (t : Nat) (f : Nat → Nat) : (s.setSuppliesUsed t f).resetHeld = s.resetHeld := rfl
@[simp] theorem State.setSuppliesUsed_rate (t : Nat) (f : Nat → Nat) : (s.setSuppliesUsed t f).rate = s.rate := rfl
@[simp] theorem State.setSuppliesUsed_rx (t : Nat) (f : Nat → Nat) : (s.setSuppliesUsed t f).rx = s.rx := rfl
@[simp] theorem State.setSuppliesUsed_requests (t : Nat) (f : Nat → Nat) : (s.setSuppliesUsed t f).requests = s.requests := rfl
@[simp] theorem State.setSuppliesUsed_overflow (t : Nat) (f : Nat → Nat) : (s.setSuppliesUsed t f).overflow = s.overflow := rfl
@[simp] theorem State.setSuppliesUsed_txd (t : Nat) (f : Nat → Nat) : (s.setSuppliesUsed t f).txd = s.txd := rfl
@[simp] theorem State.setSuppliesUsed_replies (t : Nat) (f : Nat → Nat) : (s.setSuppliesUsed t f).replies = s.replies := rfl
@[simp] theorem State.setSuppliesUsed_notices (t : Nat) (f : Nat → Nat) : (s.setSuppliesUsed t f).notices = s.notices := rfl
@[simp] theorem State.setSuppliesUsed_mask (t : Nat) (f : Nat → Nat) : (s.setSuppliesUsed t f).mask = s.mask := rfl
@[simp] theorem State.setSuppliesUsed_lost (t : Nat) (f : Nat → Nat) : (s.setSuppliesUsed t f).lost = s.lost := rfl
@[simp] theorem State.setSuppliesUsed_risers (t : Nat) (f : Nat → Nat) : (s.setSuppliesUsed t f).risers = s.risers := rfl
@[simp] theorem State.setSuppliesUsed_links (t : Nat) (f : Nat → Nat) : (s.setSuppliesUsed t f).links = s.links := rfl
@[simp] theorem State.setSuppliesUsed_stations (t : Nat) (f : Nat → Nat) : (s.setSuppliesUsed t f).stations = s.stations := rfl
@[simp] theorem State.setSuppliesUsed_jobs (t : Nat) (f : Nat → Nat) : (s.setSuppliesUsed t f).jobs = s.jobs := rfl
@[simp] theorem State.setSuppliesUsed_generations (t : Nat) (f : Nat → Nat) : (s.setSuppliesUsed t f).generations = s.generations := rfl
@[simp] theorem State.setSuppliesUsed_partitions (t : Nat) (f : Nat → Nat) : (s.setSuppliesUsed t f).partitions = s.partitions := rfl
@[simp] theorem State.setSuppliesUsed_startWindow (t : Nat) (f : Nat → Nat) : (s.setSuppliesUsed t f).startWindow = s.startWindow := rfl
@[simp] theorem State.setSuppliesUsed_abandonWindow (t : Nat) (f : Nat → Nat) : (s.setSuppliesUsed t f).abandonWindow = s.abandonWindow := rfl
@[simp] theorem State.setSuppliesUsed_rates (t : Nat) (f : Nat → Nat) : (s.setSuppliesUsed t f).rates = s.rates := rfl
@[simp] theorem State.setSuppliesUsed_users (t : Nat) (f : Nat → Nat) : (s.setSuppliesUsed t f).users = s.users := rfl
@[simp] theorem State.setSuppliesUsed_consumables (t : Nat) (f : Nat → Nat) : (s.setSuppliesUsed t f).consumables = s.consumables := rfl
@[simp] theorem State.setSuppliesUsed_reorders (t : Nat) (f : Nat → Nat) : (s.setSuppliesUsed t f).reorders = s.reorders := rfl
@[simp] theorem State.setSuppliesUsed_nextReorder (t : Nat) (f : Nat → Nat) : (s.setSuppliesUsed t f).nextReorder = s.nextReorder := rfl
@[simp] theorem State.setSuppliesUsed_faults (t : Nat) (f : Nat → Nat) : (s.setSuppliesUsed t f).faults = s.faults := rfl
@[simp] theorem State.setSuppliesUsed_callouts (t : Nat) (f : Nat → Nat) : (s.setSuppliesUsed t f).callouts = s.callouts := rfl
@[simp] theorem State.setSuppliesUsed_nextCallout (t : Nat) (f : Nat → Nat) : (s.setSuppliesUsed t f).nextCallout = s.nextCallout := rfl
@[simp] theorem State.setSuppliesUsed_pendingFaults (t : Nat) (f : Nat → Nat) : (s.setSuppliesUsed t f).pendingFaults = s.pendingFaults := rfl
@[simp] theorem State.setSuppliesUsed_policy (t : Nat) (f : Nat → Nat) : (s.setSuppliesUsed t f).policy = s.policy := rfl
@[simp] theorem State.setSuppliesUsed_clock (t : Nat) (f : Nat → Nat) : (s.setSuppliesUsed t f).clock = s.clock := rfl
@[simp] theorem State.setSuppliesUsed_counters (t : Nat) (f : Nat → Nat) : (s.setSuppliesUsed t f).counters = s.counters := rfl
@[simp] theorem State.setSuppliesUsed_expiries (t : Nat) (f : Nat → Nat) : (s.setSuppliesUsed t f).expiries = s.expiries := rfl
@[simp] theorem State.setSuppliesUsed_choices (t : Nat) (f : Nat → Nat) : (s.setSuppliesUsed t f).choices = s.choices := rfl
@[simp] theorem State.setSuppliesUsed_pending (t : Nat) (f : Nat → Nat) : (s.setSuppliesUsed t f).pending = s.pending := rfl

/-! ### setLink -/

@[simp] theorem State.setLink_resetHeld (st : Nat) (c : FaultClass) (l : CalloutLink) : (s.setLink st c l).resetHeld = s.resetHeld := rfl
@[simp] theorem State.setLink_rate (st : Nat) (c : FaultClass) (l : CalloutLink) : (s.setLink st c l).rate = s.rate := rfl
@[simp] theorem State.setLink_rx (st : Nat) (c : FaultClass) (l : CalloutLink) : (s.setLink st c l).rx = s.rx := rfl
@[simp] theorem State.setLink_requests (st : Nat) (c : FaultClass) (l : CalloutLink) : (s.setLink st c l).requests = s.requests := rfl
@[simp] theorem State.setLink_overflow (st : Nat) (c : FaultClass) (l : CalloutLink) : (s.setLink st c l).overflow = s.overflow := rfl
@[simp] theorem State.setLink_txd (st : Nat) (c : FaultClass) (l : CalloutLink) : (s.setLink st c l).txd = s.txd := rfl
@[simp] theorem State.setLink_replies (st : Nat) (c : FaultClass) (l : CalloutLink) : (s.setLink st c l).replies = s.replies := rfl
@[simp] theorem State.setLink_notices (st : Nat) (c : FaultClass) (l : CalloutLink) : (s.setLink st c l).notices = s.notices := rfl
@[simp] theorem State.setLink_mask (st : Nat) (c : FaultClass) (l : CalloutLink) : (s.setLink st c l).mask = s.mask := rfl
@[simp] theorem State.setLink_lost (st : Nat) (c : FaultClass) (l : CalloutLink) : (s.setLink st c l).lost = s.lost := rfl
@[simp] theorem State.setLink_risers (st : Nat) (c : FaultClass) (l : CalloutLink) : (s.setLink st c l).risers = s.risers := rfl
@[simp] theorem State.setLink_links (st : Nat) (c : FaultClass) (l : CalloutLink) : (s.setLink st c l).links = s.links := rfl
@[simp] theorem State.setLink_stations (st : Nat) (c : FaultClass) (l : CalloutLink) : (s.setLink st c l).stations = s.stations := rfl
@[simp] theorem State.setLink_jobs (st : Nat) (c : FaultClass) (l : CalloutLink) : (s.setLink st c l).jobs = s.jobs := rfl
@[simp] theorem State.setLink_generations (st : Nat) (c : FaultClass) (l : CalloutLink) : (s.setLink st c l).generations = s.generations := rfl
@[simp] theorem State.setLink_partitions (st : Nat) (c : FaultClass) (l : CalloutLink) : (s.setLink st c l).partitions = s.partitions := rfl
@[simp] theorem State.setLink_startWindow (st : Nat) (c : FaultClass) (l : CalloutLink) : (s.setLink st c l).startWindow = s.startWindow := rfl
@[simp] theorem State.setLink_abandonWindow (st : Nat) (c : FaultClass) (l : CalloutLink) : (s.setLink st c l).abandonWindow = s.abandonWindow := rfl
@[simp] theorem State.setLink_rates (st : Nat) (c : FaultClass) (l : CalloutLink) : (s.setLink st c l).rates = s.rates := rfl
@[simp] theorem State.setLink_tenants (st : Nat) (c : FaultClass) (l : CalloutLink) : (s.setLink st c l).tenants = s.tenants := rfl
@[simp] theorem State.setLink_users (st : Nat) (c : FaultClass) (l : CalloutLink) : (s.setLink st c l).users = s.users := rfl
@[simp] theorem State.setLink_consumables (st : Nat) (c : FaultClass) (l : CalloutLink) : (s.setLink st c l).consumables = s.consumables := rfl
@[simp] theorem State.setLink_reorders (st : Nat) (c : FaultClass) (l : CalloutLink) : (s.setLink st c l).reorders = s.reorders := rfl
@[simp] theorem State.setLink_nextReorder (st : Nat) (c : FaultClass) (l : CalloutLink) : (s.setLink st c l).nextReorder = s.nextReorder := rfl
@[simp] theorem State.setLink_callouts (st : Nat) (c : FaultClass) (l : CalloutLink) : (s.setLink st c l).callouts = s.callouts := rfl
@[simp] theorem State.setLink_nextCallout (st : Nat) (c : FaultClass) (l : CalloutLink) : (s.setLink st c l).nextCallout = s.nextCallout := rfl
@[simp] theorem State.setLink_pendingFaults (st : Nat) (c : FaultClass) (l : CalloutLink) : (s.setLink st c l).pendingFaults = s.pendingFaults := rfl
@[simp] theorem State.setLink_policy (st : Nat) (c : FaultClass) (l : CalloutLink) : (s.setLink st c l).policy = s.policy := rfl
@[simp] theorem State.setLink_clock (st : Nat) (c : FaultClass) (l : CalloutLink) : (s.setLink st c l).clock = s.clock := rfl
@[simp] theorem State.setLink_counters (st : Nat) (c : FaultClass) (l : CalloutLink) : (s.setLink st c l).counters = s.counters := rfl
@[simp] theorem State.setLink_expiries (st : Nat) (c : FaultClass) (l : CalloutLink) : (s.setLink st c l).expiries = s.expiries := rfl
@[simp] theorem State.setLink_choices (st : Nat) (c : FaultClass) (l : CalloutLink) : (s.setLink st c l).choices = s.choices := rfl
@[simp] theorem State.setLink_pending (st : Nat) (c : FaultClass) (l : CalloutLink) : (s.setLink st c l).pending = s.pending := rfl

/-! ### putConsumable -/

@[simp] theorem State.putConsumable_resetHeld (st : Nat) (col : Toner) (r : Consumable) : (s.putConsumable st col r).resetHeld = s.resetHeld := rfl
@[simp] theorem State.putConsumable_rate (st : Nat) (col : Toner) (r : Consumable) : (s.putConsumable st col r).rate = s.rate := rfl
@[simp] theorem State.putConsumable_rx (st : Nat) (col : Toner) (r : Consumable) : (s.putConsumable st col r).rx = s.rx := rfl
@[simp] theorem State.putConsumable_requests (st : Nat) (col : Toner) (r : Consumable) : (s.putConsumable st col r).requests = s.requests := rfl
@[simp] theorem State.putConsumable_overflow (st : Nat) (col : Toner) (r : Consumable) : (s.putConsumable st col r).overflow = s.overflow := rfl
@[simp] theorem State.putConsumable_txd (st : Nat) (col : Toner) (r : Consumable) : (s.putConsumable st col r).txd = s.txd := rfl
@[simp] theorem State.putConsumable_replies (st : Nat) (col : Toner) (r : Consumable) : (s.putConsumable st col r).replies = s.replies := rfl
@[simp] theorem State.putConsumable_notices (st : Nat) (col : Toner) (r : Consumable) : (s.putConsumable st col r).notices = s.notices := rfl
@[simp] theorem State.putConsumable_mask (st : Nat) (col : Toner) (r : Consumable) : (s.putConsumable st col r).mask = s.mask := rfl
@[simp] theorem State.putConsumable_lost (st : Nat) (col : Toner) (r : Consumable) : (s.putConsumable st col r).lost = s.lost := rfl
@[simp] theorem State.putConsumable_risers (st : Nat) (col : Toner) (r : Consumable) : (s.putConsumable st col r).risers = s.risers := rfl
@[simp] theorem State.putConsumable_links (st : Nat) (col : Toner) (r : Consumable) : (s.putConsumable st col r).links = s.links := rfl
@[simp] theorem State.putConsumable_stations (st : Nat) (col : Toner) (r : Consumable) : (s.putConsumable st col r).stations = s.stations := rfl
@[simp] theorem State.putConsumable_jobs (st : Nat) (col : Toner) (r : Consumable) : (s.putConsumable st col r).jobs = s.jobs := rfl
@[simp] theorem State.putConsumable_generations (st : Nat) (col : Toner) (r : Consumable) : (s.putConsumable st col r).generations = s.generations := rfl
@[simp] theorem State.putConsumable_partitions (st : Nat) (col : Toner) (r : Consumable) : (s.putConsumable st col r).partitions = s.partitions := rfl
@[simp] theorem State.putConsumable_startWindow (st : Nat) (col : Toner) (r : Consumable) : (s.putConsumable st col r).startWindow = s.startWindow := rfl
@[simp] theorem State.putConsumable_abandonWindow (st : Nat) (col : Toner) (r : Consumable) : (s.putConsumable st col r).abandonWindow = s.abandonWindow := rfl
@[simp] theorem State.putConsumable_rates (st : Nat) (col : Toner) (r : Consumable) : (s.putConsumable st col r).rates = s.rates := rfl
@[simp] theorem State.putConsumable_tenants (st : Nat) (col : Toner) (r : Consumable) : (s.putConsumable st col r).tenants = s.tenants := rfl
@[simp] theorem State.putConsumable_users (st : Nat) (col : Toner) (r : Consumable) : (s.putConsumable st col r).users = s.users := rfl
@[simp] theorem State.putConsumable_reorders (st : Nat) (col : Toner) (r : Consumable) : (s.putConsumable st col r).reorders = s.reorders := rfl
@[simp] theorem State.putConsumable_nextReorder (st : Nat) (col : Toner) (r : Consumable) : (s.putConsumable st col r).nextReorder = s.nextReorder := rfl
@[simp] theorem State.putConsumable_faults (st : Nat) (col : Toner) (r : Consumable) : (s.putConsumable st col r).faults = s.faults := rfl
@[simp] theorem State.putConsumable_callouts (st : Nat) (col : Toner) (r : Consumable) : (s.putConsumable st col r).callouts = s.callouts := rfl
@[simp] theorem State.putConsumable_nextCallout (st : Nat) (col : Toner) (r : Consumable) : (s.putConsumable st col r).nextCallout = s.nextCallout := rfl
@[simp] theorem State.putConsumable_pendingFaults (st : Nat) (col : Toner) (r : Consumable) : (s.putConsumable st col r).pendingFaults = s.pendingFaults := rfl
@[simp] theorem State.putConsumable_policy (st : Nat) (col : Toner) (r : Consumable) : (s.putConsumable st col r).policy = s.policy := rfl
@[simp] theorem State.putConsumable_clock (st : Nat) (col : Toner) (r : Consumable) : (s.putConsumable st col r).clock = s.clock := rfl
@[simp] theorem State.putConsumable_counters (st : Nat) (col : Toner) (r : Consumable) : (s.putConsumable st col r).counters = s.counters := rfl
@[simp] theorem State.putConsumable_expiries (st : Nat) (col : Toner) (r : Consumable) : (s.putConsumable st col r).expiries = s.expiries := rfl
@[simp] theorem State.putConsumable_choices (st : Nat) (col : Toner) (r : Consumable) : (s.putConsumable st col r).choices = s.choices := rfl
@[simp] theorem State.putConsumable_pending (st : Nat) (col : Toner) (r : Consumable) : (s.putConsumable st col r).pending = s.pending := rfl

/-! ### setOpenReorder -/

@[simp] theorem State.setOpenReorder_resetHeld (st : Nat) (col : Toner) (n : Option Nat) : (s.setOpenReorder st col n).resetHeld = s.resetHeld := rfl
@[simp] theorem State.setOpenReorder_rate (st : Nat) (col : Toner) (n : Option Nat) : (s.setOpenReorder st col n).rate = s.rate := rfl
@[simp] theorem State.setOpenReorder_rx (st : Nat) (col : Toner) (n : Option Nat) : (s.setOpenReorder st col n).rx = s.rx := rfl
@[simp] theorem State.setOpenReorder_requests (st : Nat) (col : Toner) (n : Option Nat) : (s.setOpenReorder st col n).requests = s.requests := rfl
@[simp] theorem State.setOpenReorder_overflow (st : Nat) (col : Toner) (n : Option Nat) : (s.setOpenReorder st col n).overflow = s.overflow := rfl
@[simp] theorem State.setOpenReorder_txd (st : Nat) (col : Toner) (n : Option Nat) : (s.setOpenReorder st col n).txd = s.txd := rfl
@[simp] theorem State.setOpenReorder_replies (st : Nat) (col : Toner) (n : Option Nat) : (s.setOpenReorder st col n).replies = s.replies := rfl
@[simp] theorem State.setOpenReorder_notices (st : Nat) (col : Toner) (n : Option Nat) : (s.setOpenReorder st col n).notices = s.notices := rfl
@[simp] theorem State.setOpenReorder_mask (st : Nat) (col : Toner) (n : Option Nat) : (s.setOpenReorder st col n).mask = s.mask := rfl
@[simp] theorem State.setOpenReorder_lost (st : Nat) (col : Toner) (n : Option Nat) : (s.setOpenReorder st col n).lost = s.lost := rfl
@[simp] theorem State.setOpenReorder_risers (st : Nat) (col : Toner) (n : Option Nat) : (s.setOpenReorder st col n).risers = s.risers := rfl
@[simp] theorem State.setOpenReorder_links (st : Nat) (col : Toner) (n : Option Nat) : (s.setOpenReorder st col n).links = s.links := rfl
@[simp] theorem State.setOpenReorder_stations (st : Nat) (col : Toner) (n : Option Nat) : (s.setOpenReorder st col n).stations = s.stations := rfl
@[simp] theorem State.setOpenReorder_jobs (st : Nat) (col : Toner) (n : Option Nat) : (s.setOpenReorder st col n).jobs = s.jobs := rfl
@[simp] theorem State.setOpenReorder_generations (st : Nat) (col : Toner) (n : Option Nat) : (s.setOpenReorder st col n).generations = s.generations := rfl
@[simp] theorem State.setOpenReorder_partitions (st : Nat) (col : Toner) (n : Option Nat) : (s.setOpenReorder st col n).partitions = s.partitions := rfl
@[simp] theorem State.setOpenReorder_startWindow (st : Nat) (col : Toner) (n : Option Nat) : (s.setOpenReorder st col n).startWindow = s.startWindow := rfl
@[simp] theorem State.setOpenReorder_abandonWindow (st : Nat) (col : Toner) (n : Option Nat) : (s.setOpenReorder st col n).abandonWindow = s.abandonWindow := rfl
@[simp] theorem State.setOpenReorder_rates (st : Nat) (col : Toner) (n : Option Nat) : (s.setOpenReorder st col n).rates = s.rates := rfl
@[simp] theorem State.setOpenReorder_tenants (st : Nat) (col : Toner) (n : Option Nat) : (s.setOpenReorder st col n).tenants = s.tenants := rfl
@[simp] theorem State.setOpenReorder_users (st : Nat) (col : Toner) (n : Option Nat) : (s.setOpenReorder st col n).users = s.users := rfl
@[simp] theorem State.setOpenReorder_reorders (st : Nat) (col : Toner) (n : Option Nat) : (s.setOpenReorder st col n).reorders = s.reorders := rfl
@[simp] theorem State.setOpenReorder_nextReorder (st : Nat) (col : Toner) (n : Option Nat) : (s.setOpenReorder st col n).nextReorder = s.nextReorder := rfl
@[simp] theorem State.setOpenReorder_faults (st : Nat) (col : Toner) (n : Option Nat) : (s.setOpenReorder st col n).faults = s.faults := rfl
@[simp] theorem State.setOpenReorder_callouts (st : Nat) (col : Toner) (n : Option Nat) : (s.setOpenReorder st col n).callouts = s.callouts := rfl
@[simp] theorem State.setOpenReorder_nextCallout (st : Nat) (col : Toner) (n : Option Nat) : (s.setOpenReorder st col n).nextCallout = s.nextCallout := rfl
@[simp] theorem State.setOpenReorder_pendingFaults (st : Nat) (col : Toner) (n : Option Nat) : (s.setOpenReorder st col n).pendingFaults = s.pendingFaults := rfl
@[simp] theorem State.setOpenReorder_policy (st : Nat) (col : Toner) (n : Option Nat) : (s.setOpenReorder st col n).policy = s.policy := rfl
@[simp] theorem State.setOpenReorder_clock (st : Nat) (col : Toner) (n : Option Nat) : (s.setOpenReorder st col n).clock = s.clock := rfl
@[simp] theorem State.setOpenReorder_counters (st : Nat) (col : Toner) (n : Option Nat) : (s.setOpenReorder st col n).counters = s.counters := rfl
@[simp] theorem State.setOpenReorder_expiries (st : Nat) (col : Toner) (n : Option Nat) : (s.setOpenReorder st col n).expiries = s.expiries := rfl
@[simp] theorem State.setOpenReorder_choices (st : Nat) (col : Toner) (n : Option Nat) : (s.setOpenReorder st col n).choices = s.choices := rfl
@[simp] theorem State.setOpenReorder_pending (st : Nat) (col : Toner) (n : Option Nat) : (s.setOpenReorder st col n).pending = s.pending := rfl

/-! ### updateReorder -/

@[simp] theorem State.updateReorder_resetHeld (n : Nat) (f : Reorder → Reorder) : (s.updateReorder n f).resetHeld = s.resetHeld := rfl
@[simp] theorem State.updateReorder_rate (n : Nat) (f : Reorder → Reorder) : (s.updateReorder n f).rate = s.rate := rfl
@[simp] theorem State.updateReorder_rx (n : Nat) (f : Reorder → Reorder) : (s.updateReorder n f).rx = s.rx := rfl
@[simp] theorem State.updateReorder_requests (n : Nat) (f : Reorder → Reorder) : (s.updateReorder n f).requests = s.requests := rfl
@[simp] theorem State.updateReorder_overflow (n : Nat) (f : Reorder → Reorder) : (s.updateReorder n f).overflow = s.overflow := rfl
@[simp] theorem State.updateReorder_txd (n : Nat) (f : Reorder → Reorder) : (s.updateReorder n f).txd = s.txd := rfl
@[simp] theorem State.updateReorder_replies (n : Nat) (f : Reorder → Reorder) : (s.updateReorder n f).replies = s.replies := rfl
@[simp] theorem State.updateReorder_notices (n : Nat) (f : Reorder → Reorder) : (s.updateReorder n f).notices = s.notices := rfl
@[simp] theorem State.updateReorder_mask (n : Nat) (f : Reorder → Reorder) : (s.updateReorder n f).mask = s.mask := rfl
@[simp] theorem State.updateReorder_lost (n : Nat) (f : Reorder → Reorder) : (s.updateReorder n f).lost = s.lost := rfl
@[simp] theorem State.updateReorder_risers (n : Nat) (f : Reorder → Reorder) : (s.updateReorder n f).risers = s.risers := rfl
@[simp] theorem State.updateReorder_links (n : Nat) (f : Reorder → Reorder) : (s.updateReorder n f).links = s.links := rfl
@[simp] theorem State.updateReorder_stations (n : Nat) (f : Reorder → Reorder) : (s.updateReorder n f).stations = s.stations := rfl
@[simp] theorem State.updateReorder_jobs (n : Nat) (f : Reorder → Reorder) : (s.updateReorder n f).jobs = s.jobs := rfl
@[simp] theorem State.updateReorder_generations (n : Nat) (f : Reorder → Reorder) : (s.updateReorder n f).generations = s.generations := rfl
@[simp] theorem State.updateReorder_partitions (n : Nat) (f : Reorder → Reorder) : (s.updateReorder n f).partitions = s.partitions := rfl
@[simp] theorem State.updateReorder_startWindow (n : Nat) (f : Reorder → Reorder) : (s.updateReorder n f).startWindow = s.startWindow := rfl
@[simp] theorem State.updateReorder_abandonWindow (n : Nat) (f : Reorder → Reorder) : (s.updateReorder n f).abandonWindow = s.abandonWindow := rfl
@[simp] theorem State.updateReorder_rates (n : Nat) (f : Reorder → Reorder) : (s.updateReorder n f).rates = s.rates := rfl
@[simp] theorem State.updateReorder_tenants (n : Nat) (f : Reorder → Reorder) : (s.updateReorder n f).tenants = s.tenants := rfl
@[simp] theorem State.updateReorder_users (n : Nat) (f : Reorder → Reorder) : (s.updateReorder n f).users = s.users := rfl
@[simp] theorem State.updateReorder_consumables (n : Nat) (f : Reorder → Reorder) : (s.updateReorder n f).consumables = s.consumables := rfl
@[simp] theorem State.updateReorder_nextReorder (n : Nat) (f : Reorder → Reorder) : (s.updateReorder n f).nextReorder = s.nextReorder := rfl
@[simp] theorem State.updateReorder_faults (n : Nat) (f : Reorder → Reorder) : (s.updateReorder n f).faults = s.faults := rfl
@[simp] theorem State.updateReorder_callouts (n : Nat) (f : Reorder → Reorder) : (s.updateReorder n f).callouts = s.callouts := rfl
@[simp] theorem State.updateReorder_nextCallout (n : Nat) (f : Reorder → Reorder) : (s.updateReorder n f).nextCallout = s.nextCallout := rfl
@[simp] theorem State.updateReorder_pendingFaults (n : Nat) (f : Reorder → Reorder) : (s.updateReorder n f).pendingFaults = s.pendingFaults := rfl
@[simp] theorem State.updateReorder_policy (n : Nat) (f : Reorder → Reorder) : (s.updateReorder n f).policy = s.policy := rfl
@[simp] theorem State.updateReorder_clock (n : Nat) (f : Reorder → Reorder) : (s.updateReorder n f).clock = s.clock := rfl
@[simp] theorem State.updateReorder_counters (n : Nat) (f : Reorder → Reorder) : (s.updateReorder n f).counters = s.counters := rfl
@[simp] theorem State.updateReorder_expiries (n : Nat) (f : Reorder → Reorder) : (s.updateReorder n f).expiries = s.expiries := rfl
@[simp] theorem State.updateReorder_choices (n : Nat) (f : Reorder → Reorder) : (s.updateReorder n f).choices = s.choices := rfl
@[simp] theorem State.updateReorder_pending (n : Nat) (f : Reorder → Reorder) : (s.updateReorder n f).pending = s.pending := rfl

/-! ### setCount -/

@[simp] theorem State.setCount_resetHeld (n c : Nat) : (s.setCount n c).resetHeld = s.resetHeld := rfl
@[simp] theorem State.setCount_rate (n c : Nat) : (s.setCount n c).rate = s.rate := rfl
@[simp] theorem State.setCount_rx (n c : Nat) : (s.setCount n c).rx = s.rx := rfl
@[simp] theorem State.setCount_requests (n c : Nat) : (s.setCount n c).requests = s.requests := rfl
@[simp] theorem State.setCount_overflow (n c : Nat) : (s.setCount n c).overflow = s.overflow := rfl
@[simp] theorem State.setCount_txd (n c : Nat) : (s.setCount n c).txd = s.txd := rfl
@[simp] theorem State.setCount_replies (n c : Nat) : (s.setCount n c).replies = s.replies := rfl
@[simp] theorem State.setCount_notices (n c : Nat) : (s.setCount n c).notices = s.notices := rfl
@[simp] theorem State.setCount_mask (n c : Nat) : (s.setCount n c).mask = s.mask := rfl
@[simp] theorem State.setCount_lost (n c : Nat) : (s.setCount n c).lost = s.lost := rfl
@[simp] theorem State.setCount_risers (n c : Nat) : (s.setCount n c).risers = s.risers := rfl
@[simp] theorem State.setCount_links (n c : Nat) : (s.setCount n c).links = s.links := rfl
@[simp] theorem State.setCount_stations (n c : Nat) : (s.setCount n c).stations = s.stations := rfl
@[simp] theorem State.setCount_jobs (n c : Nat) : (s.setCount n c).jobs = s.jobs := rfl
@[simp] theorem State.setCount_generations (n c : Nat) : (s.setCount n c).generations = s.generations := rfl
@[simp] theorem State.setCount_partitions (n c : Nat) : (s.setCount n c).partitions = s.partitions := rfl
@[simp] theorem State.setCount_startWindow (n c : Nat) : (s.setCount n c).startWindow = s.startWindow := rfl
@[simp] theorem State.setCount_abandonWindow (n c : Nat) : (s.setCount n c).abandonWindow = s.abandonWindow := rfl
@[simp] theorem State.setCount_rates (n c : Nat) : (s.setCount n c).rates = s.rates := rfl
@[simp] theorem State.setCount_tenants (n c : Nat) : (s.setCount n c).tenants = s.tenants := rfl
@[simp] theorem State.setCount_users (n c : Nat) : (s.setCount n c).users = s.users := rfl
@[simp] theorem State.setCount_consumables (n c : Nat) : (s.setCount n c).consumables = s.consumables := rfl
@[simp] theorem State.setCount_reorders (n c : Nat) : (s.setCount n c).reorders = s.reorders := rfl
@[simp] theorem State.setCount_nextReorder (n c : Nat) : (s.setCount n c).nextReorder = s.nextReorder := rfl
@[simp] theorem State.setCount_faults (n c : Nat) : (s.setCount n c).faults = s.faults := rfl
@[simp] theorem State.setCount_callouts (n c : Nat) : (s.setCount n c).callouts = s.callouts := rfl
@[simp] theorem State.setCount_nextCallout (n c : Nat) : (s.setCount n c).nextCallout = s.nextCallout := rfl
@[simp] theorem State.setCount_pendingFaults (n c : Nat) : (s.setCount n c).pendingFaults = s.pendingFaults := rfl
@[simp] theorem State.setCount_policy (n c : Nat) : (s.setCount n c).policy = s.policy := rfl
@[simp] theorem State.setCount_clock (n c : Nat) : (s.setCount n c).clock = s.clock := rfl
@[simp] theorem State.setCount_expiries (n c : Nat) : (s.setCount n c).expiries = s.expiries := rfl
@[simp] theorem State.setCount_choices (n c : Nat) : (s.setCount n c).choices = s.choices := rfl
@[simp] theorem State.setCount_pending (n c : Nat) : (s.setCount n c).pending = s.pending := rfl

/-! ### countChoices -/

@[simp] theorem State.countChoices_resetHeld (n : Nat) : (s.countChoices n).resetHeld = s.resetHeld := rfl
@[simp] theorem State.countChoices_rate (n : Nat) : (s.countChoices n).rate = s.rate := rfl
@[simp] theorem State.countChoices_rx (n : Nat) : (s.countChoices n).rx = s.rx := rfl
@[simp] theorem State.countChoices_requests (n : Nat) : (s.countChoices n).requests = s.requests := rfl
@[simp] theorem State.countChoices_overflow (n : Nat) : (s.countChoices n).overflow = s.overflow := rfl
@[simp] theorem State.countChoices_txd (n : Nat) : (s.countChoices n).txd = s.txd := rfl
@[simp] theorem State.countChoices_replies (n : Nat) : (s.countChoices n).replies = s.replies := rfl
@[simp] theorem State.countChoices_notices (n : Nat) : (s.countChoices n).notices = s.notices := rfl
@[simp] theorem State.countChoices_mask (n : Nat) : (s.countChoices n).mask = s.mask := rfl
@[simp] theorem State.countChoices_lost (n : Nat) : (s.countChoices n).lost = s.lost := rfl
@[simp] theorem State.countChoices_risers (n : Nat) : (s.countChoices n).risers = s.risers := rfl
@[simp] theorem State.countChoices_links (n : Nat) : (s.countChoices n).links = s.links := rfl
@[simp] theorem State.countChoices_stations (n : Nat) : (s.countChoices n).stations = s.stations := rfl
@[simp] theorem State.countChoices_jobs (n : Nat) : (s.countChoices n).jobs = s.jobs := rfl
@[simp] theorem State.countChoices_generations (n : Nat) : (s.countChoices n).generations = s.generations := rfl
@[simp] theorem State.countChoices_partitions (n : Nat) : (s.countChoices n).partitions = s.partitions := rfl
@[simp] theorem State.countChoices_startWindow (n : Nat) : (s.countChoices n).startWindow = s.startWindow := rfl
@[simp] theorem State.countChoices_abandonWindow (n : Nat) : (s.countChoices n).abandonWindow = s.abandonWindow := rfl
@[simp] theorem State.countChoices_rates (n : Nat) : (s.countChoices n).rates = s.rates := rfl
@[simp] theorem State.countChoices_tenants (n : Nat) : (s.countChoices n).tenants = s.tenants := rfl
@[simp] theorem State.countChoices_users (n : Nat) : (s.countChoices n).users = s.users := rfl
@[simp] theorem State.countChoices_consumables (n : Nat) : (s.countChoices n).consumables = s.consumables := rfl
@[simp] theorem State.countChoices_reorders (n : Nat) : (s.countChoices n).reorders = s.reorders := rfl
@[simp] theorem State.countChoices_nextReorder (n : Nat) : (s.countChoices n).nextReorder = s.nextReorder := rfl
@[simp] theorem State.countChoices_faults (n : Nat) : (s.countChoices n).faults = s.faults := rfl
@[simp] theorem State.countChoices_callouts (n : Nat) : (s.countChoices n).callouts = s.callouts := rfl
@[simp] theorem State.countChoices_nextCallout (n : Nat) : (s.countChoices n).nextCallout = s.nextCallout := rfl
@[simp] theorem State.countChoices_pendingFaults (n : Nat) : (s.countChoices n).pendingFaults = s.pendingFaults := rfl
@[simp] theorem State.countChoices_policy (n : Nat) : (s.countChoices n).policy = s.policy := rfl
@[simp] theorem State.countChoices_clock (n : Nat) : (s.countChoices n).clock = s.clock := rfl
@[simp] theorem State.countChoices_counters (n : Nat) : (s.countChoices n).counters = s.counters := rfl
@[simp] theorem State.countChoices_expiries (n : Nat) : (s.countChoices n).expiries = s.expiries := rfl
@[simp] theorem State.countChoices_pending (n : Nat) : (s.countChoices n).pending = s.pending := rfl

/-! ### leaving -/

@[simp] theorem State.leaving_resetHeld (rest : List Request) : (s.leaving rest).resetHeld = s.resetHeld := rfl
@[simp] theorem State.leaving_rate (rest : List Request) : (s.leaving rest).rate = s.rate := rfl
@[simp] theorem State.leaving_rx (rest : List Request) : (s.leaving rest).rx = s.rx := rfl
@[simp] theorem State.leaving_overflow (rest : List Request) : (s.leaving rest).overflow = s.overflow := rfl
@[simp] theorem State.leaving_txd (rest : List Request) : (s.leaving rest).txd = s.txd := rfl
@[simp] theorem State.leaving_replies (rest : List Request) : (s.leaving rest).replies = s.replies := rfl
@[simp] theorem State.leaving_notices (rest : List Request) : (s.leaving rest).notices = s.notices := rfl
@[simp] theorem State.leaving_mask (rest : List Request) : (s.leaving rest).mask = s.mask := rfl
@[simp] theorem State.leaving_lost (rest : List Request) : (s.leaving rest).lost = s.lost := rfl
@[simp] theorem State.leaving_risers (rest : List Request) : (s.leaving rest).risers = s.risers := rfl
@[simp] theorem State.leaving_links (rest : List Request) : (s.leaving rest).links = s.links := rfl
@[simp] theorem State.leaving_stations (rest : List Request) : (s.leaving rest).stations = s.stations := rfl
@[simp] theorem State.leaving_jobs (rest : List Request) : (s.leaving rest).jobs = s.jobs := rfl
@[simp] theorem State.leaving_generations (rest : List Request) : (s.leaving rest).generations = s.generations := rfl
@[simp] theorem State.leaving_partitions (rest : List Request) : (s.leaving rest).partitions = s.partitions := rfl
@[simp] theorem State.leaving_startWindow (rest : List Request) : (s.leaving rest).startWindow = s.startWindow := rfl
@[simp] theorem State.leaving_abandonWindow (rest : List Request) : (s.leaving rest).abandonWindow = s.abandonWindow := rfl
@[simp] theorem State.leaving_rates (rest : List Request) : (s.leaving rest).rates = s.rates := rfl
@[simp] theorem State.leaving_tenants (rest : List Request) : (s.leaving rest).tenants = s.tenants := rfl
@[simp] theorem State.leaving_users (rest : List Request) : (s.leaving rest).users = s.users := rfl
@[simp] theorem State.leaving_consumables (rest : List Request) : (s.leaving rest).consumables = s.consumables := rfl
@[simp] theorem State.leaving_reorders (rest : List Request) : (s.leaving rest).reorders = s.reorders := rfl
@[simp] theorem State.leaving_nextReorder (rest : List Request) : (s.leaving rest).nextReorder = s.nextReorder := rfl
@[simp] theorem State.leaving_faults (rest : List Request) : (s.leaving rest).faults = s.faults := rfl
@[simp] theorem State.leaving_callouts (rest : List Request) : (s.leaving rest).callouts = s.callouts := rfl
@[simp] theorem State.leaving_nextCallout (rest : List Request) : (s.leaving rest).nextCallout = s.nextCallout := rfl
@[simp] theorem State.leaving_pendingFaults (rest : List Request) : (s.leaving rest).pendingFaults = s.pendingFaults := rfl
@[simp] theorem State.leaving_policy (rest : List Request) : (s.leaving rest).policy = s.policy := rfl
@[simp] theorem State.leaving_clock (rest : List Request) : (s.leaving rest).clock = s.clock := rfl
@[simp] theorem State.leaving_counters (rest : List Request) : (s.leaving rest).counters = s.counters := rfl
@[simp] theorem State.leaving_expiries (rest : List Request) : (s.leaving rest).expiries = s.expiries := rfl
@[simp] theorem State.leaving_choices (rest : List Request) : (s.leaving rest).choices = s.choices := rfl
@[simp] theorem State.leaving_pending (rest : List Request) : (s.leaving rest).pending = s.pending := rfl

/-! ### deleteJob -/

@[simp] theorem State.deleteJob_resetHeld (j : Job) : (s.deleteJob j).resetHeld = s.resetHeld := rfl
@[simp] theorem State.deleteJob_rate (j : Job) : (s.deleteJob j).rate = s.rate := rfl
@[simp] theorem State.deleteJob_rx (j : Job) : (s.deleteJob j).rx = s.rx := rfl
@[simp] theorem State.deleteJob_requests (j : Job) : (s.deleteJob j).requests = s.requests := rfl
@[simp] theorem State.deleteJob_overflow (j : Job) : (s.deleteJob j).overflow = s.overflow := rfl
@[simp] theorem State.deleteJob_txd (j : Job) : (s.deleteJob j).txd = s.txd := rfl
@[simp] theorem State.deleteJob_replies (j : Job) : (s.deleteJob j).replies = s.replies := rfl
@[simp] theorem State.deleteJob_notices (j : Job) : (s.deleteJob j).notices = s.notices := rfl
@[simp] theorem State.deleteJob_mask (j : Job) : (s.deleteJob j).mask = s.mask := rfl
@[simp] theorem State.deleteJob_lost (j : Job) : (s.deleteJob j).lost = s.lost := rfl
@[simp] theorem State.deleteJob_risers (j : Job) : (s.deleteJob j).risers = s.risers := rfl
@[simp] theorem State.deleteJob_links (j : Job) : (s.deleteJob j).links = s.links := rfl
@[simp] theorem State.deleteJob_stations (j : Job) : (s.deleteJob j).stations = s.stations := rfl
@[simp] theorem State.deleteJob_partitions (j : Job) : (s.deleteJob j).partitions = s.partitions := rfl
@[simp] theorem State.deleteJob_startWindow (j : Job) : (s.deleteJob j).startWindow = s.startWindow := rfl
@[simp] theorem State.deleteJob_abandonWindow (j : Job) : (s.deleteJob j).abandonWindow = s.abandonWindow := rfl
@[simp] theorem State.deleteJob_rates (j : Job) : (s.deleteJob j).rates = s.rates := rfl
@[simp] theorem State.deleteJob_tenants (j : Job) : (s.deleteJob j).tenants = s.tenants := rfl
@[simp] theorem State.deleteJob_consumables (j : Job) : (s.deleteJob j).consumables = s.consumables := rfl
@[simp] theorem State.deleteJob_reorders (j : Job) : (s.deleteJob j).reorders = s.reorders := rfl
@[simp] theorem State.deleteJob_nextReorder (j : Job) : (s.deleteJob j).nextReorder = s.nextReorder := rfl
@[simp] theorem State.deleteJob_faults (j : Job) : (s.deleteJob j).faults = s.faults := rfl
@[simp] theorem State.deleteJob_callouts (j : Job) : (s.deleteJob j).callouts = s.callouts := rfl
@[simp] theorem State.deleteJob_nextCallout (j : Job) : (s.deleteJob j).nextCallout = s.nextCallout := rfl
@[simp] theorem State.deleteJob_pendingFaults (j : Job) : (s.deleteJob j).pendingFaults = s.pendingFaults := rfl
@[simp] theorem State.deleteJob_policy (j : Job) : (s.deleteJob j).policy = s.policy := rfl
@[simp] theorem State.deleteJob_clock (j : Job) : (s.deleteJob j).clock = s.clock := rfl
@[simp] theorem State.deleteJob_counters (j : Job) : (s.deleteJob j).counters = s.counters := rfl
@[simp] theorem State.deleteJob_expiries (j : Job) : (s.deleteJob j).expiries = s.expiries := rfl
@[simp] theorem State.deleteJob_choices (j : Job) : (s.deleteJob j).choices = s.choices := rfl
@[simp] theorem State.deleteJob_pending (j : Job) : (s.deleteJob j).pending = s.pending := rfl

/-! ### notifyAll -/

@[simp] theorem State.notifyAll_resetHeld (bs : List NoticeBody) : (s.notifyAll bs).resetHeld = s.resetHeld := by
  induction bs generalizing s with
  | nil => rfl
  | cons b bs ih => simpa [State.notifyAll] using ih (s.notify b)
@[simp] theorem State.notifyAll_rate (bs : List NoticeBody) : (s.notifyAll bs).rate = s.rate := by
  induction bs generalizing s with
  | nil => rfl
  | cons b bs ih => simpa [State.notifyAll] using ih (s.notify b)
@[simp] theorem State.notifyAll_rx (bs : List NoticeBody) : (s.notifyAll bs).rx = s.rx := by
  induction bs generalizing s with
  | nil => rfl
  | cons b bs ih => simpa [State.notifyAll] using ih (s.notify b)
@[simp] theorem State.notifyAll_requests (bs : List NoticeBody) : (s.notifyAll bs).requests = s.requests := by
  induction bs generalizing s with
  | nil => rfl
  | cons b bs ih => simpa [State.notifyAll] using ih (s.notify b)
@[simp] theorem State.notifyAll_overflow (bs : List NoticeBody) : (s.notifyAll bs).overflow = s.overflow := by
  induction bs generalizing s with
  | nil => rfl
  | cons b bs ih => simpa [State.notifyAll] using ih (s.notify b)
@[simp] theorem State.notifyAll_txd (bs : List NoticeBody) : (s.notifyAll bs).txd = s.txd := by
  induction bs generalizing s with
  | nil => rfl
  | cons b bs ih => simpa [State.notifyAll] using ih (s.notify b)
@[simp] theorem State.notifyAll_replies (bs : List NoticeBody) : (s.notifyAll bs).replies = s.replies := by
  induction bs generalizing s with
  | nil => rfl
  | cons b bs ih => simpa [State.notifyAll] using ih (s.notify b)
@[simp] theorem State.notifyAll_mask (bs : List NoticeBody) : (s.notifyAll bs).mask = s.mask := by
  induction bs generalizing s with
  | nil => rfl
  | cons b bs ih => simpa [State.notifyAll] using ih (s.notify b)
@[simp] theorem State.notifyAll_risers (bs : List NoticeBody) : (s.notifyAll bs).risers = s.risers := by
  induction bs generalizing s with
  | nil => rfl
  | cons b bs ih => simpa [State.notifyAll] using ih (s.notify b)
@[simp] theorem State.notifyAll_links (bs : List NoticeBody) : (s.notifyAll bs).links = s.links := by
  induction bs generalizing s with
  | nil => rfl
  | cons b bs ih => simpa [State.notifyAll] using ih (s.notify b)
@[simp] theorem State.notifyAll_stations (bs : List NoticeBody) : (s.notifyAll bs).stations = s.stations := by
  induction bs generalizing s with
  | nil => rfl
  | cons b bs ih => simpa [State.notifyAll] using ih (s.notify b)
@[simp] theorem State.notifyAll_jobs (bs : List NoticeBody) : (s.notifyAll bs).jobs = s.jobs := by
  induction bs generalizing s with
  | nil => rfl
  | cons b bs ih => simpa [State.notifyAll] using ih (s.notify b)
@[simp] theorem State.notifyAll_generations (bs : List NoticeBody) : (s.notifyAll bs).generations = s.generations := by
  induction bs generalizing s with
  | nil => rfl
  | cons b bs ih => simpa [State.notifyAll] using ih (s.notify b)
@[simp] theorem State.notifyAll_partitions (bs : List NoticeBody) : (s.notifyAll bs).partitions = s.partitions := by
  induction bs generalizing s with
  | nil => rfl
  | cons b bs ih => simpa [State.notifyAll] using ih (s.notify b)
@[simp] theorem State.notifyAll_startWindow (bs : List NoticeBody) : (s.notifyAll bs).startWindow = s.startWindow := by
  induction bs generalizing s with
  | nil => rfl
  | cons b bs ih => simpa [State.notifyAll] using ih (s.notify b)
@[simp] theorem State.notifyAll_abandonWindow (bs : List NoticeBody) : (s.notifyAll bs).abandonWindow = s.abandonWindow := by
  induction bs generalizing s with
  | nil => rfl
  | cons b bs ih => simpa [State.notifyAll] using ih (s.notify b)
@[simp] theorem State.notifyAll_rates (bs : List NoticeBody) : (s.notifyAll bs).rates = s.rates := by
  induction bs generalizing s with
  | nil => rfl
  | cons b bs ih => simpa [State.notifyAll] using ih (s.notify b)
@[simp] theorem State.notifyAll_tenants (bs : List NoticeBody) : (s.notifyAll bs).tenants = s.tenants := by
  induction bs generalizing s with
  | nil => rfl
  | cons b bs ih => simpa [State.notifyAll] using ih (s.notify b)
@[simp] theorem State.notifyAll_users (bs : List NoticeBody) : (s.notifyAll bs).users = s.users := by
  induction bs generalizing s with
  | nil => rfl
  | cons b bs ih => simpa [State.notifyAll] using ih (s.notify b)
@[simp] theorem State.notifyAll_consumables (bs : List NoticeBody) : (s.notifyAll bs).consumables = s.consumables := by
  induction bs generalizing s with
  | nil => rfl
  | cons b bs ih => simpa [State.notifyAll] using ih (s.notify b)
@[simp] theorem State.notifyAll_reorders (bs : List NoticeBody) : (s.notifyAll bs).reorders = s.reorders := by
  induction bs generalizing s with
  | nil => rfl
  | cons b bs ih => simpa [State.notifyAll] using ih (s.notify b)
@[simp] theorem State.notifyAll_nextReorder (bs : List NoticeBody) : (s.notifyAll bs).nextReorder = s.nextReorder := by
  induction bs generalizing s with
  | nil => rfl
  | cons b bs ih => simpa [State.notifyAll] using ih (s.notify b)
@[simp] theorem State.notifyAll_faults (bs : List NoticeBody) : (s.notifyAll bs).faults = s.faults := by
  induction bs generalizing s with
  | nil => rfl
  | cons b bs ih => simpa [State.notifyAll] using ih (s.notify b)
@[simp] theorem State.notifyAll_callouts (bs : List NoticeBody) : (s.notifyAll bs).callouts = s.callouts := by
  induction bs generalizing s with
  | nil => rfl
  | cons b bs ih => simpa [State.notifyAll] using ih (s.notify b)
@[simp] theorem State.notifyAll_nextCallout (bs : List NoticeBody) : (s.notifyAll bs).nextCallout = s.nextCallout := by
  induction bs generalizing s with
  | nil => rfl
  | cons b bs ih => simpa [State.notifyAll] using ih (s.notify b)
@[simp] theorem State.notifyAll_pendingFaults (bs : List NoticeBody) : (s.notifyAll bs).pendingFaults = s.pendingFaults := by
  induction bs generalizing s with
  | nil => rfl
  | cons b bs ih => simpa [State.notifyAll] using ih (s.notify b)
@[simp] theorem State.notifyAll_policy (bs : List NoticeBody) : (s.notifyAll bs).policy = s.policy := by
  induction bs generalizing s with
  | nil => rfl
  | cons b bs ih => simpa [State.notifyAll] using ih (s.notify b)
@[simp] theorem State.notifyAll_clock (bs : List NoticeBody) : (s.notifyAll bs).clock = s.clock := by
  induction bs generalizing s with
  | nil => rfl
  | cons b bs ih => simpa [State.notifyAll] using ih (s.notify b)
@[simp] theorem State.notifyAll_counters (bs : List NoticeBody) : (s.notifyAll bs).counters = s.counters := by
  induction bs generalizing s with
  | nil => rfl
  | cons b bs ih => simpa [State.notifyAll] using ih (s.notify b)
@[simp] theorem State.notifyAll_expiries (bs : List NoticeBody) : (s.notifyAll bs).expiries = s.expiries := by
  induction bs generalizing s with
  | nil => rfl
  | cons b bs ih => simpa [State.notifyAll] using ih (s.notify b)
@[simp] theorem State.notifyAll_choices (bs : List NoticeBody) : (s.notifyAll bs).choices = s.choices := by
  induction bs generalizing s with
  | nil => rfl
  | cons b bs ih => simpa [State.notifyAll] using ih (s.notify b)
@[simp] theorem State.notifyAll_pending (bs : List NoticeBody) : (s.notifyAll bs).pending = s.pending := by
  induction bs generalizing s with
  | nil => rfl
  | cons b bs ih => simpa [State.notifyAll] using ih (s.notify b)

end Sys2Proof.Machine
end

