-- ==== Sys2Proof/Laws/Table.lean ====
section
/-! SUPPORT. The laws of sparse tables: reading after a write, writing leaves every other number alone, and every
operation keeps the canonical form. -/

namespace Sys2Proof.Machine

variable {α : Type}

/-! ### Reading after a write -/

@[simp] theorem Table.fetch_nil (n : Nat) : Table.fetch ([] : Table α) n = none := rfl

@[simp] theorem Table.fetch_put_same (t : Table α) (n : Nat) (a : α) : (t.put n a).fetch n = some a := by
  induction t with
  | nil => simp [Table.put, Table.fetch]
  | cons p t ih =>
    obtain ⟨k, v⟩ := p
    simp only [Table.put]
    split
    · simp [Table.fetch]
    · split
      · simp [Table.fetch]
      · simp [Table.fetch, *]

theorem Table.fetch_put_other (t : Table α) {n m : Nat} (a : α) (h : m ≠ n) :
    (t.put n a).fetch m = t.fetch m := by
  induction t with
  | nil => simp [Table.put, Table.fetch, h]
  | cons p t ih =>
    obtain ⟨k, v⟩ := p
    simp only [Table.put]
    split
    · simp [Table.fetch, h]
    · split
      · simp_all [Table.fetch]
      · simp [Table.fetch, ih]

theorem Table.fetch_update (t : Table α) (n m : Nat) (f : α → α) :
    (t.update n f).fetch m = if m = n then (t.fetch m).map f else t.fetch m := by
  induction t with
  | nil => simp [Table.update, Table.fetch]
  | cons p t ih =>
    obtain ⟨k, v⟩ := p
    simp only [Table.update]
    split
    · subst n
      by_cases hm : m = k <;> simp [Table.fetch, hm]
    · by_cases hm : m = k
      · subst m
        simp [Table.fetch, Ne.symm ‹_›]
      · simp [Table.fetch, hm, ih]

@[simp] theorem Table.fetch_update_same (t : Table α) (n : Nat) (f : α → α) :
    (t.update n f).fetch n = (t.fetch n).map f := by simp [Table.fetch_update]

theorem Table.fetch_update_other (t : Table α) {n m : Nat} (f : α → α) (h : m ≠ n) :
    (t.update n f).fetch m = t.fetch m := by simp [Table.fetch_update, h]

@[simp] theorem Table.fetch_mapRecords (f : Nat → α → α) (t : Table α) (n : Nat) :
    (t.mapRecords f).fetch n = (t.fetch n).map (f n) := by
  induction t with
  | nil => rfl
  | cons p t ih =>
    obtain ⟨k, v⟩ := p
    by_cases h : n = k <;> simp [Table.mapRecords, Table.fetch, h, ih]

theorem Table.fetch_remove_other (t : Table α) {n m : Nat} (h : m ≠ n) :
    (t.remove n).fetch m = t.fetch m := by
  induction t with
  | nil => rfl
  | cons p t ih =>
    obtain ⟨k, v⟩ := p
    simp only [Table.remove]
    split
    · simp_all [Table.fetch]
    · simp [Table.fetch, ih]

/-! ### Numbers -/

theorem Table.fetch_eq_none_iff (t : Table α) (n : Nat) : t.fetch n = none ↔ n ∉ t.numbers := by
  induction t with
  | nil => simp [Table.numbers]
  | cons p t ih =>
    obtain ⟨k, v⟩ := p
    by_cases h : n = k <;> simp [Table.fetch, Table.numbers, h, ih]

theorem Table.fetch_isSome_iff (t : Table α) (n : Nat) : (t.fetch n).isSome = true ↔ n ∈ t.numbers := by
  have h := t.fetch_eq_none_iff n
  cases hf : t.fetch n with
  | none => simpa [hf] using h
  | some a => rw [hf] at h; simpa using h

theorem Table.mem_of_fetch (t : Table α) {n : Nat} {a : α} (h : t.fetch n = some a) : (n, a) ∈ t := by
  induction t with
  | nil => simp at h
  | cons p t ih =>
    obtain ⟨k, v⟩ := p
    by_cases hk : n = k
    · subst n; simp [Table.fetch] at h; simp [h]
    · simp only [Table.fetch, hk, if_false] at h
      exact List.mem_cons_of_mem _ (ih h)

theorem Table.numbers_eq_map (t : Table α) : t.numbers = t.map (·.1) := by
  induction t with
  | nil => rfl
  | cons p t ih => obtain ⟨k, v⟩ := p; simp [Table.numbers, ih]

theorem Table.fetch_of_mem {t : Table α} (hs : t.Sorted) {n : Nat} {a : α} (h : (n, a) ∈ t) :
    t.fetch n = some a := by
  induction t with
  | nil => simp at h
  | cons p t ih =>
    obtain ⟨k, v⟩ := p
    simp only [Table.Sorted, Table.numbers, List.pairwise_cons] at hs
    rcases List.mem_cons.1 h with h | h
    · obtain ⟨rfl, rfl⟩ := Prod.mk.inj h; simp [Table.fetch]
    · have hn : n ∈ Table.numbers t := by rw [Table.numbers_eq_map]; exact List.mem_map_of_mem (f := (·.1)) h
      have := hs.1 n hn
      have hne : n ≠ k := by omega
      simpa [Table.fetch, hne] using ih hs.2 h

@[simp] theorem Table.numbers_update (t : Table α) (n : Nat) (f : α → α) : (t.update n f).numbers = t.numbers := by
  induction t with
  | nil => rfl
  | cons p t ih =>
    obtain ⟨k, v⟩ := p
    simp only [Table.update]
    split <;> simp [Table.numbers, ih]

@[simp] theorem Table.numbers_mapRecords (f : Nat → α → α) (t : Table α) : (t.mapRecords f).numbers = t.numbers := by
  induction t with
  | nil => rfl
  | cons p t ih => obtain ⟨k, v⟩ := p; simp [Table.mapRecords, Table.numbers, ih]

theorem Table.numbers_remove_sublist (t : Table α) (n : Nat) : List.Sublist (Table.numbers (t.remove n)) t.numbers := by
  induction t with
  | nil => exact List.Sublist.refl _
  | cons p t ih =>
    obtain ⟨k, v⟩ := p
    simp only [Table.remove]
    split
    · simp [Table.numbers]
    · simpa [Table.numbers] using ih

theorem Table.numbers_keep_sublist (p : Nat → α → Bool) (t : Table α) : List.Sublist (Table.numbers (t.keep p)) t.numbers := by
  induction t with
  | nil => exact List.Sublist.refl _
  | cons q t ih =>
    obtain ⟨k, v⟩ := q
    simp only [Table.keep]
    split
    · simpa [Table.numbers] using ih
    · simpa [Table.numbers] using ih.trans (List.sublist_cons_self _ _)

theorem Table.mem_numbers_put (t : Table α) (n m : Nat) (a : α) :
    m ∈ (t.put n a).numbers ↔ m = n ∨ m ∈ t.numbers := by
  rw [← Table.fetch_isSome_iff, ← Table.fetch_isSome_iff]
  by_cases h : m = n
  · subst m; simp
  · simp [Table.fetch_put_other _ _ h, h]

/-! ### The canonical form -/

theorem Table.sorted_nil : Table.Sorted ([] : Table α) := List.Pairwise.nil

theorem Table.sorted_put {t : Table α} (h : t.Sorted) (n : Nat) (a : α) : (t.put n a).Sorted := by
  induction t with
  | nil => simp [Table.put, Table.Sorted, Table.numbers]
  | cons p t ih =>
    obtain ⟨k, v⟩ := p
    simp only [Table.Sorted, Table.numbers, List.pairwise_cons] at h
    simp only [Table.put]
    split
    · rename_i hlt
      simp only [Table.Sorted, Table.numbers, List.pairwise_cons, List.mem_cons]
      refine ⟨?_, h.1, h.2⟩
      rintro m (rfl | hm)
      · exact hlt
      · exact Nat.lt_trans hlt (h.1 m hm)
    · split
      · rename_i heq
        subst n
        simp only [Table.Sorted, Table.numbers, List.pairwise_cons]
        exact h
      · simp only [Table.Sorted, Table.numbers, List.pairwise_cons]
        refine ⟨fun m hm => ?_, ih h.2⟩
        rcases (Table.mem_numbers_put t n m a).1 hm with rfl | hm
        · omega
        · exact h.1 m hm

theorem Table.sorted_update {t : Table α} (h : t.Sorted) (n : Nat) (f : α → α) : (t.update n f).Sorted := by
  simpa [Table.Sorted] using h

theorem Table.sorted_mapRecords {t : Table α} (h : t.Sorted) (f : Nat → α → α) : (t.mapRecords f).Sorted := by
  simpa [Table.Sorted] using h

theorem Table.sorted_remove {t : Table α} (h : t.Sorted) (n : Nat) : (t.remove n).Sorted :=
  List.Pairwise.sublist (t.numbers_remove_sublist n) h

theorem Table.sorted_keep {t : Table α} (h : t.Sorted) (p : Nat → α → Bool) : (t.keep p).Sorted :=
  List.Pairwise.sublist (t.numbers_keep_sublist p) h

theorem Table.fetch_remove_same {t : Table α} (h : t.Sorted) (n : Nat) : (t.remove n).fetch n = none := by
  induction t with
  | nil => rfl
  | cons p t ih =>
    obtain ⟨k, v⟩ := p
    simp only [Table.Sorted, Table.numbers, List.pairwise_cons] at h
    simp only [Table.remove]
    split
    · subst n
      rw [Table.fetch_eq_none_iff]
      intro hm
      exact absurd (h.1 k hm) (Nat.lt_irrefl k)
    · simp [Table.fetch, *]

theorem Table.fetch_keep {t : Table α} (h : t.Sorted) (p : Nat → α → Bool) (n : Nat) :
    (t.keep p).fetch n = (t.fetch n).filter (p n) := by
  induction t with
  | nil => rfl
  | cons q t ih =>
    obtain ⟨k, v⟩ := q
    simp only [Table.Sorted, Table.numbers, List.pairwise_cons] at h
    have hk : k ∉ Table.numbers t := fun hm => absurd (h.1 k hm) (Nat.lt_irrefl k)
    have hnone : Table.fetch t k = none := (Table.fetch_eq_none_iff t k).2 hk
    simp only [Table.keep]
    by_cases hn : n = k
    · subst n
      cases hp : p k v
      · simp [Table.fetch, ih h.2, hnone, Option.filter, hp]
      · simp [Table.fetch, Option.filter, hp]
    · cases hp : p k v <;> simp [Table.fetch, hn, ih h.2]

/-! ### Sizes -/

theorem Table.length_put_present (t : Table α) {n : Nat} (hs : t.Sorted) (h : (t.fetch n).isSome = true) (a : α) :
    (t.put n a).length = t.length := by
  induction t with
  | nil => simp at h
  | cons p t ih =>
    obtain ⟨k, v⟩ := p
    simp only [Table.Sorted, Table.numbers, List.pairwise_cons] at hs
    have hmem := (Table.fetch_isSome_iff _ n).1 h
    simp only [Table.numbers, List.mem_cons] at hmem
    simp only [Table.put]
    split
    · rename_i hlt
      rcases hmem with rfl | hm
      · omega
      · have := hs.1 n hm; omega
    · split
      · rfl
      · rename_i hne
        have hf : (Table.fetch t n).isSome = true := by simpa [Table.fetch, hne] using h
        simpa using ih hs.2 hf

theorem Table.length_put_le (t : Table α) (n : Nat) (a : α) : (t.put n a).length ≤ t.length + 1 := by
  induction t with
  | nil => simp [Table.put]
  | cons p t ih =>
    obtain ⟨k, v⟩ := p
    simp only [Table.put]
    split
    · simp
    · split <;> simp [ih]

@[simp] theorem Table.length_update (t : Table α) (n : Nat) (f : α → α) : (t.update n f).length = t.length := by
  induction t with
  | nil => rfl
  | cons p t ih =>
    obtain ⟨k, v⟩ := p
    simp only [Table.update]
    split <;> simp [ih]

@[simp] theorem Table.length_mapRecords (f : Nat → α → α) (t : Table α) : (t.mapRecords f).length = t.length := by
  induction t with
  | nil => rfl
  | cons p t ih => obtain ⟨k, v⟩ := p; simp [Table.mapRecords, ih]

theorem Table.length_remove (t : Table α) {n : Nat} (h : (t.fetch n).isSome = true) :
    (t.remove n).length + 1 = t.length := by
  induction t with
  | nil => simp at h
  | cons p t ih =>
    obtain ⟨k, v⟩ := p
    simp only [Table.remove]
    split
    · simp
    · rename_i hne
      simpa using ih (by simpa [Table.fetch, hne] using h)

/-! ### Four like things -/

theorem Quad.item_write {α : Type} (q : Quad α) {n : Nat} (h : n < 4) (a : α) : (q.write n a).item n = a := by
  match n, h with
  | 0, _ => rfl
  | 1, _ => rfl
  | 2, _ => rfl
  | 3, _ => rfl

theorem Quad.item_write_other {α : Type} (q : Quad α) {n m : Nat} (hn : n < 4) (hm : m < 4) (h : m ≠ n) (a : α) :
    (q.write n a).item m = q.item m := by
  have hn' : n = 0 ∨ n = 1 ∨ n = 2 ∨ n = 3 := by omega
  have hm' : m = 0 ∨ m = 1 ∨ m = 2 ∨ m = 3 := by omega
  rcases hn' with rfl | rfl | rfl | rfl <;> rcases hm' with rfl | rfl | rfl | rfl <;>
    first | rfl | exact absurd rfl h

/-! ### The first free number -/

/-- From a number on, every number below the first free one is present, and it is not. -/
theorem Table.firstFree_spec {t : Table α} (hs : t.Sorted) (n : Nat) :
    n ≤ t.firstFree n ∧ t.fetch (t.firstFree n) = none ∧ ∀ m, n ≤ m → m < t.firstFree n → (t.fetch m).isSome = true := by
  induction t generalizing n with
  | nil => exact ⟨Nat.le_refl n, rfl, fun m h1 h2 => absurd h2 (by simp only [Table.firstFree]; omega)⟩
  | cons p t ih =>
    obtain ⟨k, v⟩ := p
    simp only [Table.Sorted, Table.numbers, List.pairwise_cons] at hs
    simp only [Table.firstFree]
    split
    · rename_i hk
      subst n
      obtain ⟨h1, h2, h3⟩ := ih hs.2 (k + 1)
      refine ⟨by omega, ?_, fun m hm1 hm2 => ?_⟩
      · have hne : Table.firstFree t (k + 1) ≠ k := by omega
        simpa [Table.fetch, hne] using h2
      · by_cases hmk : m = k
        · simp [Table.fetch, hmk]
        · simpa [Table.fetch, hmk] using h3 m (by omega) hm2
    · split
      · rename_i hne hlt
        obtain ⟨h1, h2, h3⟩ := ih hs.2 n
        refine ⟨h1, ?_, fun m hm1 hm2 => ?_⟩
        · have hne' : Table.firstFree t n ≠ k := by omega
          simpa [Table.fetch, hne'] using h2
        · have hmk : m ≠ k := by omega
          simpa [Table.fetch, hmk] using h3 m hm1 hm2
      · rename_i hne hlt
        refine ⟨Nat.le_refl n, ?_, fun m h1 h2 => absurd h2 (by omega)⟩
        rw [Table.fetch_eq_none_iff]
        simp only [Table.numbers, List.mem_cons, not_or]
        refine ⟨fun h => hne h.symm, fun hm => ?_⟩
        have := hs.1 n hm
        omega

end Sys2Proof.Machine
end

