-- ==== Sys2Proof/Laws/Ops.lean ====
section
/-! SUPPORT. What the shared operations do, each said once: queueing a notice (R184), handing commands to a link
(R119, R120), changing a riser, and the orders that nothing fixes. -/

namespace Sys2Proof.Machine

/-! ### Notices -/

/-- A notice changes the notice queue and the lost flag, and nothing else. -/
theorem State.notify_eq (s : State) (b : NoticeBody) :
    s.notify b = { s with notices := (s.notify b).notices, lost := (s.notify b).lost } := by
  unfold State.notify; split <;> [split <;> rfl; rfl]

/-- A disabled class queues nothing. -/
theorem State.notify_masked {s : State} {b : NoticeBody} (h : s.mask.enables b.cls = false) : s.notify b = s := by
  simp [State.notify, h]

/-- A notice of an enabled class joins the end of a queue that has room. -/
theorem State.notify_room {s : State} {b : NoticeBody} (h : s.mask.enables b.cls = true)
    (hn : s.notices.length < 64) :
    s.notify b = { s with notices := s.notices ++ [⟨b.cls, s.clock, b⟩] } := by
  simp [State.notify, h, Config.noticeCapacity, hn]

/-- A notice of an enabled class is lost with a full queue. -/
theorem State.notify_full {s : State} {b : NoticeBody} (h : s.mask.enables b.cls = true)
    (hn : 64 ≤ s.notices.length) : s.notify b = { s with lost := true } := by
  have : ¬ s.notices.length < 64 := by omega
  simp [State.notify, h, Config.noticeCapacity, this]

/-- The notice queue's length stays within its capacity. -/
theorem State.notify_length {s : State} (b : NoticeBody) (h : s.notices.length ≤ 64) :
    (s.notify b).notices.length ≤ 64 := by
  unfold State.notify Config.noticeCapacity
  split
  · split
    · simp; omega
    · exact h
  · exact h

/-- What a notice does depends on four fields alone. -/
theorem State.notify_congr {a s : State} (b : NoticeBody) (h1 : a.mask = s.mask) (h2 : a.notices = s.notices)
    (h3 : a.lost = s.lost) (h4 : a.clock = s.clock) :
    (a.notify b).notices = (s.notify b).notices ∧ (a.notify b).lost = (s.notify b).lost := by
  unfold State.notify
  rw [h1, h2, h4]
  split
  · split
    · exact ⟨rfl, h3⟩
    · exact ⟨rfl, rfl⟩
  · exact ⟨h2, h3⟩

/-- The request queue plays no part in a notice. -/
theorem State.notify_leaving (s : State) (rest : List Request) (b : NoticeBody) :
    (s.leaving rest).notify b = (s.notify b).leaving rest := by
  rw [State.notify_eq (s.leaving rest), State.notify_eq s]
  obtain ⟨h1, h2⟩ := State.notify_congr (a := s.leaving rest) (s := s) b rfl rfl rfl rfl
  rw [h1, h2]; rfl

/-- Several notices change the notice queue and the lost flag, and nothing else. -/
theorem State.notifyAll_eq (s : State) (bs : List NoticeBody) :
    s.notifyAll bs = { s with notices := (s.notifyAll bs).notices, lost := (s.notifyAll bs).lost } := by
  induction bs generalizing s with
  | nil => rfl
  | cons b bs ih =>
    have e : s.notifyAll (b :: bs) = (s.notify b).notifyAll bs := rfl
    rw [e, ih, State.notify_eq]

/-! ### Replies -/

/-- A reply begins at once on a TXD that has nothing to send. -/
theorem State.reply_begins {s : State} (q : Request) (a : Answer) (h1 : s.txd = none) (h2 : s.overflow = [])
    (h3 : s.replies = []) : s.reply q a = { s with txd := some ⟨q.kind, q.tag, a⟩ } := by
  unfold State.reply; simp [h1, h2, h3]

/-- A reply waits behind what TXD has to send before it. -/
theorem State.reply_waits {s : State} (q : Request) (a : Answer)
    (h : s.txd ≠ none ∨ s.overflow ≠ [] ∨ s.replies ≠ []) :
    s.reply q a = { s with replies := s.replies ++ [⟨q.kind, q.tag, a⟩] } := by
  have : (s.txd.isNone && s.overflow.isEmpty && s.replies.isEmpty) = false := by rcases h with h | h | h <;> simp [h]
  unfold State.reply; simp [this]

/-! ### Steps under RESET -/

/-- With RESET high a step runs. -/
theorem State.whileRunning_run {s : State} (h : s.resetHeld = false) (f : State → State) : s.whileRunning f = f s := by
  simp [State.whileRunning, h]

/-! ### Command lists -/

/-- A handed command leaves the front of a list that is not empty. -/
theorem Link.hand_front {l : Link} {k : Command} (c : Command) (h : l.commands.head? = some k) :
    (l.hand c).commands.head? = some k := by
  unfold Link.hand; split
  · exact h
  · split
    · simp [List.head?_append, h]
    · exact h

/-- A SHOW enters at the front. -/
theorem Link.handShow_front (l : Link) (sh : Show) : (l.handShow sh).commands.head? = some (.display sh) := by
  unfold Link.handShow; split
  · rfl
  · split <;> rfl

/-! ### Handles -/

/-- A job that a handle names stands in its slot, whose generation agrees (R48). -/
theorem State.jobNamed_parts {s : State} {h : Nat} {j : Job} (hn : s.jobNamed h = some j) :
    s.jobs.fetch (h / 256) = some j ∧ s.generation (h / 256) = h % 256 := by
  unfold State.jobNamed at hn
  split at hn
  · split at hn
    · simp_all
    · simp at hn
  · simp at hn

/-- A slot's generation after a write. -/
theorem State.setGeneration_generation {s : State} (hs : s.generations.Sorted) (n g k : Nat) :
    (s.setGeneration n g).generation k = if k = n then g else s.generation k := by
  unfold State.setGeneration State.generation; dsimp only []
  by_cases hk : k = n
  · subst hk
    by_cases hg : g = 0
    · simp [hg, Table.fetch_remove_same hs]
    · simp [hg]
  · by_cases hg : g = 0
    · simp [hg, Table.fetch_remove_other _ hk, hk]
    · simp [hg, Table.fetch_put_other _ _ hk, hk]

/-! ### Free orders -/

/-- A free order holds exactly the items it was given. -/
theorem freeOrder_perm {α : Type} (c n : Nat) (xs : List α) : (freeOrder c n xs).Perm xs := by
  induction n generalizing xs with
  | zero => exact .refl _
  | succ n ih =>
    match xs with
    | [] => exact .refl _
    | [x] => exact .refl _
    | x :: y :: ys =>
      unfold freeOrder
      dsimp only []
      generalize hi : Config.choice (c + n) % (x :: y :: ys).length = i
      have hlt : i < (x :: y :: ys).length := by rw [← hi]; exact Nat.mod_lt _ (by simp)
      rw [List.getElem?_eq_getElem hlt]
      refine (List.Perm.append_left _ (ih _)).trans ?_
      exact List.getElem_cons_eraseIdx_perm hlt

/-- A free order of a state's choices holds exactly the items it was given. -/
theorem State.freeOrder_perm {α : Type} (s : State) (xs : List α) : (s.freeOrder xs).Perm xs :=
  Sys2Proof.Machine.freeOrder_perm _ _ xs

end Sys2Proof.Machine
end

