-- ==== Sys2Proof/Laws/Kept.lean ====
section
/-! SUPPORT. What the shared operations keep: each operation is shown once either to keep every invariant of
Sys2Proof.Safety and every job's name and owner (`State.Kept`), or, where it deletes jobs, to keep the invariants
(`State.Keeps`). -/

namespace Sys2Proof.Machine

/-! ### The two relations -/

/-- The numbers, handles and owners of a table of jobs. -/
def jobNames (t : Table Job) : List (Nat × Nat × Nat) := t.map (fun p => (p.1, p.2.handle, p.2.owner))

/-- The numbers, owner lists and job counts of a table of users. -/
def ownerLists (t : Table User) : List (Nat × List Nat × Nat) := t.map (fun p => (p.1, p.2.owned, p.2.jobCount))

/-- Every counter's count lies in its range. -/
structure CountersOk (q : Quad Counter) : Prop where
  c0 : q.q0.inv
  c1 : q.q1.inv
  c2 : q.q2.inv
  c3 : q.q3.inv

/-- Each invariant of the part is kept from `s` to `t`, and so are the names and owners of the jobs and the owner
lists of the users. -/
structure State.Kept (s t : State) : Prop where
  requests    : s.requests.length ≤ 8 → t.requests.length ≤ 8 := by exact id
  notices     : s.notices.length ≤ 64 → t.notices.length ≤ 64 := by exact id
  commands    : (∀ p ∈ s.links, p.2.inv) → ∀ p ∈ t.links, p.2.inv := by exact id
  clock       : s.clock ≤ 4294967295 → t.clock ≤ 4294967295 := by exact id
  counters    : CountersOk s.counters → CountersOk t.counters := by exact id
  usedUsers   : (∀ p ∈ s.users, p.2.account.used ≤ 2000000000) → ∀ p ∈ t.users, p.2.account.used ≤ 2000000000 := by
    exact id
  usedTenants : (∀ p ∈ s.tenants, p.2.account.used ≤ 2000000000) →
    ∀ p ∈ t.tenants, p.2.account.used ≤ 2000000000 := by exact id
  links       : s.links.Sorted → t.links.Sorted := by exact id
  stations    : s.stations.Sorted → t.stations.Sorted := by exact id
  tenants     : s.tenants.Sorted → t.tenants.Sorted := by exact id
  consumables : s.consumables.Sorted → t.consumables.Sorted := by exact id
  faults      : s.faults.Sorted → t.faults.Sorted := by exact id
  callouts    : s.callouts.Sorted → t.callouts.Sorted := by exact id
  classes     : (∀ p ∈ s.faults, p.1 = p.2.station * 8 + classCode p.2.cls) →
    ∀ p ∈ t.faults, p.1 = p.2.station * 8 + classCode p.2.cls := by exact id
  generations : t.generations = s.generations := by rfl
  jobs        : jobNames t.jobs = jobNames s.jobs := by rfl
  users       : s.users.Sorted → ownerLists t.users = ownerLists s.users := by exact fun _ => rfl

/-- Each invariant of the part is kept from `s` to `t`. -/
structure State.Keeps (s t : State) : Prop where
  queue     : s.QueueInv → t.QueueInv
  count     : s.CountInv → t.CountInv
  canonical : s.Canonical → t.Canonical
  owner     : s.OwnerInv → t.OwnerInv

theorem numbers_of_names {a b : Table Job} (h : jobNames a = jobNames b) : a.numbers = b.numbers := by
  have := congrArg (List.map (·.1)) h
  simpa [jobNames, Table.numbers_eq_map, Function.comp_def] using this

theorem numbers_of_lists {a b : Table User} (h : ownerLists a = ownerLists b) : a.numbers = b.numbers := by
  have := congrArg (List.map (·.1)) h
  simpa [ownerLists, Table.numbers_eq_map, Function.comp_def] using this

theorem State.Kept.refl (s : State) : s.Kept s := {}

theorem State.Kept.usersSorted {s t : State} (h : s.Kept t) (hs : s.users.Sorted) : t.users.Sorted := by
  unfold Table.Sorted; rw [numbers_of_lists (h.users hs)]; exact hs

theorem State.Kept.trans {s t u : State} (h : s.Kept t) (k : t.Kept u) : s.Kept u where
  requests := k.requests ∘ h.requests
  notices := k.notices ∘ h.notices
  commands := k.commands ∘ h.commands
  clock := k.clock ∘ h.clock
  counters := k.counters ∘ h.counters
  usedUsers := k.usedUsers ∘ h.usedUsers
  usedTenants := k.usedTenants ∘ h.usedTenants
  links := k.links ∘ h.links
  stations := k.stations ∘ h.stations
  tenants := k.tenants ∘ h.tenants
  consumables := k.consumables ∘ h.consumables
  faults := k.faults ∘ h.faults
  callouts := k.callouts ∘ h.callouts
  classes := k.classes ∘ h.classes
  generations := k.generations.trans h.generations
  jobs := k.jobs.trans h.jobs
  users := fun hs => (k.users (h.usersSorted hs)).trans (h.users hs)

theorem State.Keeps.refl (s : State) : s.Keeps s := ⟨id, id, id, id⟩

theorem State.Keeps.trans {s t u : State} (h : s.Keeps t) (k : t.Keeps u) : s.Keeps u :=
  ⟨k.queue ∘ h.queue, k.count ∘ h.count, k.canonical ∘ h.canonical, k.owner ∘ h.owner⟩

/-- Reading a table of names. -/
theorem Table.fetch_map {α β : Type} (f : α → β) (t : Table α) (n : Nat) :
    Table.fetch (t.map (fun p => (p.1, f p.2))) n = (t.fetch n).map f := by
  induction t with
  | nil => rfl
  | cons p t ih =>
    obtain ⟨k, v⟩ := p
    simp only [List.map_cons, Table.fetch]
    split
    · rfl
    · exact ih

theorem fetch_of_names {a b : Table Job} (h : jobNames a = jobNames b) (n : Nat) :
    (a.fetch n).map (fun j => (j.handle, j.owner)) = (b.fetch n).map (fun j => (j.handle, j.owner)) := by
  rw [← Table.fetch_map, ← Table.fetch_map]; exact congrArg (Table.fetch · n) h

theorem fetch_of_lists {a b : Table User} (h : ownerLists a = ownerLists b) (n : Nat) :
    (a.fetch n).map (fun u => (u.owned, u.jobCount)) = (b.fetch n).map (fun u => (u.owned, u.jobCount)) := by
  rw [← Table.fetch_map, ← Table.fetch_map]; exact congrArg (Table.fetch · n) h

theorem mem_of_names {a b : Table Job} (h : jobNames a = jobNames b) {p : Nat × Job} (hp : p ∈ a) :
    ∃ q ∈ b, q.1 = p.1 ∧ q.2.handle = p.2.handle ∧ q.2.owner = p.2.owner := by
  have : (p.1, p.2.handle, p.2.owner) ∈ jobNames b := by
    rw [← h]; exact List.mem_map_of_mem (f := fun p : Nat × Job => (p.1, p.2.handle, p.2.owner)) hp
  obtain ⟨q, hq, he⟩ := List.mem_map.1 this
  simp only [Prod.mk.injEq] at he
  exact ⟨q, hq, he⟩

theorem mem_of_lists {a b : Table User} (h : ownerLists a = ownerLists b) {p : Nat × User} (hp : p ∈ a) :
    ∃ q ∈ b, q.1 = p.1 ∧ q.2.owned = p.2.owned ∧ q.2.jobCount = p.2.jobCount := by
  have : (p.1, p.2.owned, p.2.jobCount) ∈ ownerLists b := by
    rw [← h]; exact List.mem_map_of_mem (f := fun p : Nat × User => (p.1, p.2.owned, p.2.jobCount)) hp
  obtain ⟨q, hq, he⟩ := List.mem_map.1 this
  simp only [Prod.mk.injEq] at he
  exact ⟨q, hq, he⟩

/-- A job's name and owner stand through a change that keeps them. -/
theorem State.Kept.named {s t : State} (h : s.Kept t) {k : Nat} {j : Job} (hj : s.jobNamed k = some j) :
    ∃ i, t.jobNamed k = some i ∧ i.handle = j.handle ∧ i.owner = j.owner := by
  obtain ⟨h1, h2⟩ := State.jobNamed_parts hj
  have hf := fetch_of_names h.jobs (k / 256)
  rw [h1] at hf
  obtain ⟨i, hi, he⟩ := Option.map_eq_some_iff.1 hf
  simp only [Prod.mk.injEq] at he
  refine ⟨i, ?_, he⟩
  have hg : t.generation (k / 256) = k % 256 := by unfold State.generation; rw [h.generations]; exact h2
  simp [State.jobNamed, hi, hg]

theorem State.Kept.keeps {s t : State} (h : s.Kept t) : s.Keeps t := by
  have canon : s.Canonical → t.Canonical := fun c =>
    { links := h.links c.links
      stations := h.stations c.stations
      jobs := by unfold Table.Sorted; rw [numbers_of_names h.jobs]; exact c.jobs
      generations := by rw [h.generations]; exact c.generations
      tenants := h.tenants c.tenants
      users := h.usersSorted c.users
      consumables := h.consumables c.consumables
      faults := h.faults c.faults
      callouts := h.callouts c.callouts
      slots := by rw [h.generations]; exact c.slots
      handles := by
        intro p hp
        obtain ⟨q, hq, h1, h2, _⟩ := mem_of_names h.jobs hp
        have := c.handles q hq
        unfold State.generation at this ⊢
        rw [h.generations, ← h1, ← h2]; exact this
      classes := h.classes c.classes }
  refine ⟨fun q => ⟨h.requests q.requests, h.notices q.notices, h.commands q.commands⟩, fun c => ?_, canon, fun o => ?_⟩
  · obtain ⟨c0, c1, c2, c3⟩ := h.counters ⟨c.ic0, c.ic1, c.ic2, c.ic3⟩
    exact ⟨h.clock c.clock, c0, c1, c2, c3, h.usedUsers c.users, h.usedTenants c.tenants⟩
  · have hu := h.users o.canonical.users
    refine ⟨canon o.canonical, ?_, ?_, ?_, ?_⟩
    · intro p hp
      obtain ⟨q, hq, _, h2, h3⟩ := mem_of_lists hu hp
      rw [← h2, ← h3]; exact o.count q hq
    · intro p hp
      obtain ⟨q, hq, _, h2, _⟩ := mem_of_lists hu hp
      rw [← h2]; exact o.once q hq
    · intro p hp k hk
      obtain ⟨q, hq, h1, h2, _⟩ := mem_of_lists hu hp
      obtain ⟨j, hj, ho⟩ := o.named q hq k (h2 ▸ hk)
      obtain ⟨i, hi, _, h4⟩ := h.named hj
      exact ⟨i, hi, by rw [h4, ho, h1]⟩
    · intro p hp
      obtain ⟨q, hq, _, h2, h3⟩ := mem_of_names h.jobs hp
      obtain ⟨u, hu', hm⟩ := o.listed q hq
      have hf := fetch_of_lists hu q.2.owner
      rw [hu'] at hf
      obtain ⟨v, hv, he⟩ := Option.map_eq_some_iff.1 hf
      simp only [Prod.mk.injEq] at he
      exact ⟨v, by rw [← h3]; exact hv, by rw [he.1, ← h2]; exact hm⟩

/-! ### Tables -/

theorem Table.mem_put {α : Type} {t : Table α} {n : Nat} {a : α} {p : Nat × α} (h : p ∈ t.put n a) :
    p = (n, a) ∨ p ∈ t := by
  induction t with
  | nil => simpa [Table.put] using h
  | cons q t ih =>
    obtain ⟨k, v⟩ := q
    simp only [Table.put] at h
    split at h
    · simpa using h
    · split at h
      · rcases List.mem_cons.1 h with h | h
        · exact .inl h
        · exact .inr (List.mem_cons_of_mem _ h)
      · rcases List.mem_cons.1 h with h | h
        · exact .inr (h ▸ List.mem_cons_self)
        · exact (ih h).imp id (List.mem_cons_of_mem _)

theorem Table.mem_remove {α : Type} {t : Table α} {n : Nat} {p : Nat × α} (h : p ∈ t.remove n) : p ∈ t := by
  induction t with
  | nil => exact h
  | cons q t ih =>
    obtain ⟨k, v⟩ := q
    simp only [Table.remove] at h
    split at h
    · exact List.mem_cons_of_mem _ h
    · rcases List.mem_cons.1 h with h | h
      · exact h ▸ List.mem_cons_self
      · exact List.mem_cons_of_mem _ (ih h)

theorem Table.mem_keep {α : Type} {p : Nat → α → Bool} {t : Table α} {x : Nat × α} (h : x ∈ t.keep p) : x ∈ t := by
  induction t with
  | nil => exact h
  | cons q t ih =>
    obtain ⟨k, v⟩ := q
    simp only [Table.keep] at h
    split at h
    · rcases List.mem_cons.1 h with h | h
      · exact h ▸ List.mem_cons_self
      · exact List.mem_cons_of_mem _ (ih h)
    · exact List.mem_cons_of_mem _ (ih h)

/-- What holds of every record and is kept by a change holds after it. -/
theorem Table.all_update {α : Type} {P : Nat × α → Prop} {t : Table α} {n : Nat} {f : α → α}
    (hf : ∀ k v, P (k, v) → P (k, f v)) (h : ∀ p ∈ t, P p) : ∀ p ∈ t.update n f, P p := by
  induction t with
  | nil => exact h
  | cons q t ih =>
    obtain ⟨k, v⟩ := q
    simp only [Table.update]
    have h1 := h _ List.mem_cons_self
    have h2 : ∀ p ∈ t, P p := fun p hp => h p (List.mem_cons_of_mem _ hp)
    split
    · exact List.forall_mem_cons.2 ⟨hf _ _ h1, h2⟩
    · exact List.forall_mem_cons.2 ⟨h1, ih h2⟩

theorem Table.all_mapRecords {α : Type} {P : Nat × α → Prop} {t : Table α} {f : Nat → α → α}
    (hf : ∀ k v, P (k, v) → P (k, f k v)) (h : ∀ p ∈ t, P p) : ∀ p ∈ t.mapRecords f, P p := by
  induction t with
  | nil => exact h
  | cons q t ih =>
    obtain ⟨k, v⟩ := q
    exact List.forall_mem_cons.2
      ⟨hf _ _ (h _ List.mem_cons_self), ih fun p hp => h p (List.mem_cons_of_mem _ hp)⟩

theorem Table.all_put {α : Type} {P : Nat × α → Prop} {t : Table α} {n : Nat} {a : α}
    (ha : P (n, a)) (h : ∀ p ∈ t, P p) : ∀ p ∈ t.put n a, P p := fun p hp =>
  (Table.mem_put hp).elim (fun e => e ▸ ha) (h p)

/-- A view of the records that a change keeps is unchanged by it. -/
theorem Table.map_update {α β : Type} {g : Nat × α → β} (t : Table α) (n : Nat) {f : α → α}
    (hf : ∀ k v, g (k, f v) = g (k, v)) : (t.update n f).map g = t.map g := by
  induction t with
  | nil => rfl
  | cons q t ih =>
    obtain ⟨k, v⟩ := q
    simp only [Table.update]
    split
    · exact congrArg (· :: List.map g t) (hf k v)
    · exact congrArg (g (k, v) :: ·) ih

theorem Table.map_mapRecords {α β : Type} {g : Nat × α → β} (t : Table α) {f : Nat → α → α}
    (hf : ∀ k v, g (k, f k v) = g (k, v)) : (t.mapRecords f).map g = t.map g := by
  induction t with
  | nil => rfl
  | cons q t ih =>
    obtain ⟨k, v⟩ := q
    simp only [Table.mapRecords, List.map_cons, hf, ih]

/-- Writing the record of a present number changes that record alone. -/
theorem Table.put_present {α : Type} {t : Table α} (hs : t.Sorted) {n : Nat} {b : α} (h : t.fetch n = some b) (a : α) :
    t.put n a = t.update n (fun _ => a) := by
  induction t with
  | nil => simp at h
  | cons p t ih =>
    obtain ⟨k, v⟩ := p
    simp only [Table.Sorted, Table.numbers, List.pairwise_cons] at hs
    simp only [Table.put, Table.update]
    by_cases hn : n = k
    · subst hn; simp
    · have hf : Table.fetch t n = some b := by simpa [Table.fetch, hn] using h
      have hm : n ∈ Table.numbers t := (Table.fetch_isSome_iff t n).1 (by simp [hf])
      have := hs.1 n hm
      rw [if_neg (by omega), if_neg hn, if_neg hn, ih hs.2 hf]

/-! ### Sequences and choices of operations -/

theorem State.Kept.fold {α : Type} {f : State → α → State} (h : ∀ (s : State) a, s.Kept (f s a)) (l : List α) (s : State) :
    s.Kept (l.foldl f s) := by
  induction l generalizing s with
  | nil => exact .refl s
  | cons a l ih => exact (h s a).trans (ih _)

theorem State.Keeps.fold {α : Type} {f : State → α → State} (h : ∀ (s : State) a, s.Keeps (f s a)) (l : List α) (s : State) :
    s.Keeps (l.foldl f s) := by
  induction l generalizing s with
  | nil => exact .refl s
  | cons a l ih => exact (h s a).trans (ih _)

theorem State.Kept.cond {s a b : State} {c : Prop} [Decidable c] (h : s.Kept a) (k : s.Kept b) :
    s.Kept (if c then a else b) := by split <;> assumption

theorem State.Keeps.cond {s a b : State} {c : Prop} [Decidable c] (h : s.Keeps a) (k : s.Keeps b) :
    s.Keeps (if c then a else b) := by split <;> assumption

end Sys2Proof.Machine
end

