-- ==== Sys2Proof/Laws/KeptOps.lean ====
section
/-! SUPPORT. Every shared operation of the part keeps the invariants: one lemma an operation, in the order of the
definition files. -/

namespace Sys2Proof.Machine

/-! ### Ops -/

theorem State.notify_kept (s : State) (b : NoticeBody) : s.Kept (s.notify b) := by
  rw [State.notify_eq]
  exact { notices := State.notify_length b }

theorem State.notifyAll_kept (s : State) (bs : List NoticeBody) : s.Kept (s.notifyAll bs) :=
  .fold State.notify_kept bs s

theorem State.reply_kept (s : State) (q : Request) (a : Answer) : s.Kept (s.reply q a) := {}

theorem State.countChoices_kept (s : State) (n : Nat) : s.Kept (s.countChoices n) := {}

theorem Link.hand_inv {l : Link} (h : l.inv) {c : Command} (hc : c.isShow = false) : (l.hand c).inv := by
  unfold Link.hand Config.commandCapacity
  split
  · exact h
  · split
    · refine ⟨by simp; omega, ?_, h.held⟩
      simpa [List.filter_append, hc] using h.shows
    · refine ⟨h.size, h.shows, fun d hd => ?_⟩
      rcases List.mem_append.1 hd with hd | hd
      · exact h.held d hd
      · rw [List.mem_singleton.1 hd]; exact hc

theorem filter_none {cs : List Command} (h : cs.any Command.isShow = false) : cs.filter Command.isShow = [] := by
  rw [List.filter_eq_nil_iff]; intro c hc hs; rw [List.any_eq_false] at h; exact h c hc hs

theorem Link.handShow_inv {l : Link} (h : l.inv) (sh : Show) : (l.handShow sh).inv := by
  unfold Link.handShow Config.commandCapacity
  split
  · rename_i hany
    have hlt : (l.commands.filter (fun c => !c.isShow)).length < l.commands.length := by
      rw [List.length_filter_lt_length_iff_exists]
      obtain ⟨c, hc, hs⟩ := List.any_eq_true.1 hany
      exact ⟨c, hc, by simp [hs]⟩
    have := h.size
    refine ⟨by simp only [List.length_cons]; omega, ?_, h.held⟩
    simp [List.filter_cons, Command.isShow]
  · rename_i hany
    have hn := filter_none (by simpa using hany)
    split
    · refine ⟨by simp; omega, ?_, h.held⟩
      simp [List.filter_cons, Command.isShow, hn]
    · refine ⟨by have := h.size; simp; omega, ?_, ?_⟩
      · have : (l.commands.dropLast.filter Command.isShow) = [] := by
          refine List.sublist_nil.1 ?_
          rw [← hn]; exact (List.dropLast_sublist _).filter _
        simp [List.filter_cons, Command.isShow, this]
      · intro c hc
        rcases List.mem_append.1 hc with hc | hc
        · cases hl : l.commands.getLast? with
          | none => rw [hl] at hc; cases hc
          | some d =>
            rw [hl] at hc
            have hd : c = d := by simpa using hc
            have hm : c ∈ l.commands := by rw [hd]; exact List.mem_of_getLast? hl
            simpa using fun hs => hany (List.any_eq_true.2 ⟨c, hm, hs⟩)
        · exact h.held c hc

theorem Link.taken_inv {l : Link} (h : l.inv) (c : Command) : (l.taken c).inv := by
  unfold Link.taken
  have hsub := List.erase_sublist (a := c) (l := l.commands)
  have hshow : ((l.commands.erase c).filter Command.isShow).length ≤ 1 :=
    Nat.le_trans (hsub.filter _).length_le h.shows
  split
  · rename_i hc
    have hlen : (l.commands.erase c).length = l.commands.length - 1 :=
      List.length_erase_of_mem (by simpa using hc)
    have hpos : 0 < l.commands.length := List.length_pos_of_mem (a := c) (by simpa using hc)
    have := h.size
    split
    · exact ⟨by simp only []; omega, hshow, h.held⟩
    · rename_i k ks hk
      have hks : k.isShow = false := h.held k (by rw [hk]; exact List.mem_cons_self)
      refine ⟨by simp only [List.length_append, List.length_singleton]; omega, ?_, fun d hd => h.held d (by
        rw [hk]; exact List.mem_cons_of_mem _ hd)⟩
      simpa [List.filter_append, hks] using hshow
  · exact h

/-- A change of one link that keeps its invariant. -/
theorem State.links_kept {s : State} {st : Nat} {f : Link → Link} (h : ∀ l : Link, l.inv → (f l).inv) :
    s.Kept { s with links := s.links.update st f } :=
  { commands := Table.all_update (fun _ l => h l), links := fun h => Table.sorted_update h _ _ }

theorem State.handCommand_kept (s : State) (st : Nat) {c : Command} (hc : c.isShow = false) :
    s.Kept (s.handCommand st c) := State.links_kept fun _ h => Link.hand_inv h hc

theorem State.handShow_kept (s : State) (st : Nat) (sh : Show) : s.Kept (s.handShow st sh) :=
  State.links_kept fun _ h => Link.handShow_inv h sh

theorem State.updateStation_kept (s : State) (st : Nat) (f : Station → Station) : s.Kept (s.updateStation st f) :=
  { stations := fun h => Table.sorted_update h _ _ }

theorem State.updateJob_kept (s : State) (k : Nat) {f : Job → Job}
    (hf : ∀ j, (f j).handle = j.handle ∧ (f j).owner = j.owner) : s.Kept (s.updateJob k f) :=
  { jobs := Table.map_update _ _ fun n j => by simp [hf j] }

/-- A change of one user's record that keeps its list and bounds its used. -/
theorem State.user_kept {s : State} {n : Nat} {f : User → User}
    (hf : ∀ u, (f u).owned = u.owned ∧ (f u).jobCount = u.jobCount)
    (hu : ∀ u, u.account.used ≤ 2000000000 → (f u).account.used ≤ 2000000000) :
    s.Kept { s with users := s.users.update n f } :=
  { usedUsers := Table.all_update fun _ u => hu u
    users := fun _ => Table.map_update _ _ fun k u => by simp [hf u] }

/-- A change of one tenant's record that bounds its used. -/
theorem State.tenant_kept {s : State} {n : Nat} {f : Tenant → Tenant}
    (ht : ∀ t, t.account.used ≤ 2000000000 → (f t).account.used ≤ 2000000000) :
    s.Kept { s with tenants := s.tenants.update n f } :=
  { usedTenants := Table.all_update fun _ t => ht t
    tenants := fun h => Table.sorted_update h _ _ }

/-! ### Flags: accounts -/

theorem Account.charge_used (a : Account) (x : Nat) : (a.charge x).used ≤ 2000000000 := by
  unfold Account.charge Config.maxAccount; split <;> simp only [] <;> omega

theorem Account.adjust_used (a : Account) (d : Int) : (a.adjust d).used ≤ 2000000000 := by
  unfold Account.adjust Config.maxAccount; split <;> simp only [] <;> omega

theorem Account.rollOver_used {a : Account} (m : Mode) (n : Nat) (h : a.used ≤ 2000000000) :
    (a.rollOver m n).used ≤ 2000000000 := by
  unfold Account.rollOver; cases m <;> simp only [] <;> omega

theorem State.checkUser_kept (s : State) (n prior : Nat) (u : User) {a : Account} (h : a.used ≤ 2000000000) :
    s.Kept (s.checkUser n prior u a) :=
  (State.user_kept (f := fun v => { v with account := (s.userTerms u).checked prior a }) (fun _ => ⟨rfl, rfl⟩)
    (fun _ _ => h)).trans (State.notifyAll_kept _ _)

theorem State.checkTenant_kept (s : State) (n prior : Nat) (t : Tenant) {a : Account} (h : a.used ≤ 2000000000) :
    s.Kept (s.checkTenant n prior t a) :=
  (State.tenant_kept (f := fun v => { v with account := t.terms.checked prior a }) (fun _ _ => h)).trans
    (State.notifyAll_kept _ _)

theorem State.reserve_kept (s : State) (user tenant c : Nat) : s.Kept (s.reserve user tenant c) :=
  { usedUsers := Table.all_update fun _ _ => id
    users := fun _ => Table.map_update _ _ fun _ _ => rfl
    usedTenants := Table.all_update fun _ _ => id
    tenants := fun h => Table.sorted_update h _ _ }

theorem State.unreserve_kept (s : State) (user tenant c : Nat) : s.Kept (s.unreserve user tenant c) :=
  { usedUsers := Table.all_update fun _ _ => id
    users := fun _ => Table.map_update _ _ fun _ _ => rfl
    usedTenants := Table.all_update fun _ _ => id
    tenants := fun h => Table.sorted_update h _ _ }

theorem State.settleUser_kept (s : State) (n reservation charge : Nat) :
    s.Kept (s.settleUser n reservation charge) := by
  unfold State.settleUser
  split
  · exact State.checkUser_kept _ _ _ _ (Account.charge_used _ _)
  · exact .refl s

theorem State.settleTenant_kept (s : State) (n reservation charge : Nat) :
    s.Kept (s.settleTenant n reservation charge) := by
  unfold State.settleTenant
  split
  · exact State.checkTenant_kept _ _ _ _ (Account.charge_used _ _)
  · exact .refl s

theorem State.rollUsers_kept (s : State) : s.Kept s.rollUsers :=
  State.Kept.trans (t := { s with
      users := s.users.mapRecords (fun _ u => { u with account := u.account.rollOver u.quotaMode u.allowance }) })
    { usedUsers := Table.all_mapRecords fun _ _ h => Account.rollOver_used _ _ h
      users := fun _ => Table.map_mapRecords _ fun _ _ => rfl }
    (State.notify_kept _ _)

theorem State.rollTenants_kept (s : State) : s.Kept s.rollTenants :=
  State.Kept.trans (t := { s with
      tenants := s.tenants.mapRecords (fun _ t => { t with account := t.account.rollOver t.quotaMode t.allowance }) })
    { usedTenants := Table.all_mapRecords fun _ _ h => Account.rollOver_used _ _ h
      tenants := fun h => Table.sorted_mapRecords h _ }
    (State.notify_kept _ _)

/-! ### Queue: deletion and return -/

/-- In a canonical state a handle names the job that carries it. -/
theorem State.Canonical.handle_of_named {s : State} (c : s.Canonical) {h : Nat} {j : Job}
    (hj : s.jobNamed h = some j) : j.handle = h := by
  obtain ⟨h1, h2⟩ := State.jobNamed_parts hj
  obtain ⟨h3, h4⟩ := c.handles _ (Table.mem_of_fetch _ h1)
  simp only [] at h3 h4
  omega

/-- In a canonical state every job in the table is named by its handle. -/
theorem State.Canonical.named_of_mem {s : State} (c : s.Canonical) {p : Nat × Job} (hp : p ∈ s.jobs) :
    s.jobNamed p.2.handle = some p.2 := by
  obtain ⟨h1, h2⟩ := c.handles p hp
  have hf : s.jobs.fetch p.1 = some p.2 := Table.fetch_of_mem c.jobs hp
  simp [State.jobNamed, h1, hf, h2]

theorem Table.ne_of_mem_remove {α : Type} {t : Table α} (hs : t.Sorted) {n : Nat} {p : Nat × α}
    (h : p ∈ t.remove n) : p.1 ≠ n := by
  rintro rfl
  have h1 := Table.fetch_remove_same hs p.1
  rw [Table.fetch_eq_none_iff, Table.numbers_eq_map] at h1
  exact h1 (List.mem_map_of_mem (f := (·.1)) h)

theorem State.setGeneration_slots {s : State} {n g : Nat} (hg : g < 256) (h : ∀ p ∈ s.generations, p.2 < 256) :
    ∀ p ∈ (s.setGeneration n g).generations, p.2 < 256 := by
  intro p hp
  unfold State.setGeneration at hp
  simp only [] at hp
  split at hp
  · exact h p (Table.mem_remove hp)
  · rcases Table.mem_put hp with rfl | hp
    · exact hg
    · exact h p hp

theorem State.setGeneration_sorted {s : State} {n g : Nat} (h : s.generations.Sorted) :
    (s.setGeneration n g).generations.Sorted := by
  unfold State.setGeneration; simp only []; split
  · exact Table.sorted_remove h _
  · exact Table.sorted_put h _ _

theorem Table.mem_update {α : Type} {t : Table α} {n : Nat} {f : α → α} {p : Nat × α} (hs : t.Sorted)
    (h : p ∈ t.update n f) : ∃ v, t.fetch p.1 = some v ∧ p.2 = if p.1 = n then f v else v := by
  have hf := Table.fetch_of_mem (Table.sorted_update hs n f) h
  rw [Table.fetch_update] at hf
  split at hf
  · obtain ⟨v, hv, he⟩ := Option.map_eq_some_iff.1 hf
    exact ⟨v, hv, by rw [if_pos ‹_›]; exact he.symm⟩
  · exact ⟨p.2, hf, by rw [if_neg ‹_›]⟩

/-- A slot's generation after a deletion (R61). -/
theorem State.deleteJob_generation {s : State} (c : s.Canonical) (j : Job) (k : Nat) :
    (s.deleteJob j).generation k =
      if k = j.handle / 256 then (s.generation (j.handle / 256) + 1) % 256 else s.generation k :=
  State.setGeneration_generation (s := { s with
    jobs := s.jobs.remove (j.handle / 256)
    users := s.users.update j.owner (fun u => { u with owned := u.owned.erase j.handle, jobCount := u.jobCount - 1 }) })
    c.generations _ _ k

/-- A deletion keeps the canonical form. -/
theorem State.deleteJob_canonical {s : State} (c : s.Canonical) (j : Job) : (s.deleteJob j).Canonical :=
  { links := c.links
    stations := c.stations
    jobs := Table.sorted_remove c.jobs _
    generations := State.setGeneration_sorted c.generations
    tenants := c.tenants
    users := Table.sorted_update c.users _ _
    consumables := c.consumables
    faults := c.faults
    callouts := c.callouts
    slots := State.setGeneration_slots (Nat.mod_lt _ (by omega)) c.slots
    handles := by
      intro p hp
      have hne := Table.ne_of_mem_remove c.jobs hp
      have := c.handles p (Table.mem_remove hp)
      rw [State.deleteJob_generation c, if_neg hne]; exact this
    classes := c.classes }

/-- The deletion of a job that stands in its slot keeps the owner lists. -/
theorem State.deleteJob_owner {s : State} (o : s.OwnerInv) {j i : Job} (hi : s.jobNamed j.handle = some i)
    (ho : i.owner = j.owner) : (s.deleteJob j).OwnerInv := by
  have c := o.canonical
  obtain ⟨hf, hg⟩ := State.jobNamed_parts hi
  have named : ∀ h k, h ≠ j.handle → s.jobNamed h = some k → (s.deleteJob j).jobNamed h = some k := by
    intro h k hne hk
    obtain ⟨h1, h2⟩ := State.jobNamed_parts hk
    have hn : h / 256 ≠ j.handle / 256 := by
      intro he; rw [he] at h2; rw [hg] at h2; omega
    have h3 : (s.deleteJob j).jobs.fetch (h / 256) = some k := (Table.fetch_remove_other _ hn).trans h1
    have h4 : (s.deleteJob j).generation (h / 256) = h % 256 := by
      rw [State.deleteJob_generation c, if_neg hn]; exact h2
    simp [State.jobNamed, h3, h4]
  have hh : i.handle = j.handle := c.handle_of_named hi
  obtain ⟨u, hu, hm⟩ := o.listed _ (Table.mem_of_fetch _ hf)
  simp only [] at hu hm
  rw [ho] at hu; rw [hh] at hm
  have once := o.once _ (Table.mem_of_fetch _ hu)
  refine ⟨State.deleteJob_canonical c j, ?_, ?_, ?_, ?_⟩
  · intro p hp
    obtain ⟨v, hv, he⟩ := Table.mem_update c.users hp
    have hc := o.count _ (Table.mem_of_fetch _ hv)
    simp only [] at hc
    rw [he]; split
    · rename_i hn
      rw [hn, hu] at hv; cases hv
      simp only [hc, List.length_erase_of_mem hm]
    · exact hc
  · intro p hp
    obtain ⟨v, hv, he⟩ := Table.mem_update c.users hp
    have hc := o.once _ (Table.mem_of_fetch _ hv)
    rw [he]; split
    · exact hc.erase _
    · exact hc
  · intro p hp h hmem
    obtain ⟨v, hv, he⟩ := Table.mem_update c.users hp
    have hn := o.named _ (Table.mem_of_fetch _ hv)
    have hv1 := o.once _ (Table.mem_of_fetch _ hv)
    have : h ∈ v.owned ∧ h ≠ j.handle := by
      rw [he] at hmem; split at hmem
      · exact ⟨List.mem_of_mem_erase hmem, fun e => by
          rw [e] at hmem; exact List.Nodup.not_mem_erase hv1 hmem⟩
      · rename_i hne
        refine ⟨hmem, fun e => hne ?_⟩
        obtain ⟨k, hk, hko⟩ := hn h hmem
        rw [e, hi] at hk; cases hk
        exact hko.symm.trans ho
    obtain ⟨k, hk, hko⟩ := hn h this.1
    exact ⟨k, named h k this.2 hk, hko⟩
  · intro p hp
    have hne := Table.ne_of_mem_remove c.jobs hp
    have hp' := Table.mem_remove hp
    obtain ⟨v, hv, hvm⟩ := o.listed p hp'
    have hhn : p.2.handle ≠ j.handle := fun e => hne (by rw [← (c.handles p hp').1, e])
    refine ⟨if p.2.owner = j.owner then { v with owned := v.owned.erase j.handle, jobCount := v.jobCount - 1 } else v, ?_, ?_⟩
    · show Table.fetch (Table.update _ _ _) _ = _
      rw [Table.fetch_update, hv]; split <;> rfl
    · split
      · exact (List.mem_erase_of_ne hhn).2 hvm
      · exact hvm

/-- A job stands in its slot under its own handle, in a canonical state. -/
def State.Stands (s : State) (j : Job) : Prop := s.Canonical → s.jobNamed j.handle = some j

theorem State.stands_of_named {s : State} {h : Nat} {j : Job} (hj : s.jobNamed h = some j) : s.Stands j :=
  fun c => by rw [c.handle_of_named hj]; exact hj

theorem State.stands_of_fetch {s : State} {n : Nat} {j : Job} (hj : s.jobs.fetch n = some j) : s.Stands j :=
  fun c => c.named_of_mem (Table.mem_of_fetch _ hj)

/-- A job that stood in its slot before a change that keeps names may be deleted after it. -/
theorem State.Kept.delete {s t : State} (h : s.Kept t) {j : Job} (hj : s.Stands j) : s.Keeps (t.deleteJob j) where
  queue q := by
    obtain ⟨h1, h2, h3⟩ := h.keeps.queue q
    exact ⟨h1, h2, h3⟩
  count c := by
    have c' := h.keeps.count c
    exact ⟨c'.clock, c'.ic0, c'.ic1, c'.ic2, c'.ic3, Table.all_update (fun _ _ => id) c'.users, c'.tenants⟩
  canonical c := State.deleteJob_canonical (h.keeps.canonical c) j
  owner o := by
    obtain ⟨i, hi, _, ho⟩ := h.named (hj o.canonical)
    exact State.deleteJob_owner (h.keeps.owner o) hi ho

theorem State.removeEntry_kept (s : State) (st k : Nat) : s.Kept (s.removeEntry st k) := State.updateStation_kept _ _ _

theorem State.releaseReservation_kept (s : State) (j : Job) : s.Kept (s.releaseReservation j) := by
  unfold State.releaseReservation; split
  · exact State.unreserve_kept _ _ _ _
  · exact .refl s

theorem State.expireIfPassed_keeps (s : State) (k : Nat) : s.Keeps (s.expireIfPassed k) := by
  unfold State.expireIfPassed; split
  · rename_i j hj
    exact .cond (((State.Kept.refl s).delete (State.stands_of_named hj)).trans (State.notify_kept _ _).keeps) (.refl s)
  · exact .refl s

theorem State.sendBack_keeps (s : State) (st : Nat) (j : Job) (b : NoticeBody) : s.Keeps (s.sendBack st j b) :=
  ((((State.removeEntry_kept _ _ _).trans (State.releaseReservation_kept _ _)).trans
    (State.updateJob_kept _ _ (f := Job.returned) fun _ => ⟨rfl, rfl⟩)).trans (State.notify_kept _ _)).keeps.trans
    (State.expireIfPassed_keeps _ _)

theorem State.returnEntry_keeps (st : Nat) (r : ReturnReason) (s : State) (k : Nat) :
    s.Keeps (State.returnEntry st r s k) := by
  unfold State.returnEntry; split
  · exact State.sendBack_keeps _ _ _ _
  · exact (State.removeEntry_kept _ _ _).keeps

theorem State.returnWaiting_keeps (s : State) (st : Nat) (p : Entry → Bool) (r : ReturnReason) :
    s.Keeps (s.returnWaiting st p r) := by
  unfold State.returnWaiting; split
  · exact .fold (fun s k => State.returnEntry_keeps st r s k) _ _
  · exact .refl s

theorem State.sendCheck_kept (s : State) (st : Nat) : s.Kept (s.sendCheck st) := by
  unfold State.sendCheck
  split
  · exact .refl s
  · split
    · split
      · split
        · exact ((State.updateStation_kept _ _ _).trans (State.handCommand_kept _ _ rfl)).trans (State.notify_kept _ _)
        · exact .refl s
      · exact .refl s
    · exact .refl s

theorem State.fallBack_kept (s : State) (st : Nat) (j : Job) (c : Charging) : s.Kept (s.fallBack st j c) :=
  ((State.unreserve_kept _ _ _ _).trans
    (State.updateJob_kept _ _ (f := fun i => { i with charging := some (c.recomputed j.descriptor) })
      fun _ => ⟨rfl, rfl⟩)).trans (State.notify_kept _ _)

theorem State.adjustColour_keeps (st : Nat) (s : State) (k : Nat) : s.Keeps (State.adjustColour st s k) := by
  unfold State.adjustColour
  split
  · split
    · exact .cond (.cond (State.fallBack_kept _ _ _ _).keeps (State.returnEntry_keeps _ _ _ _)) (.refl s)
    · exact .refl s
  · exact .refl s

theorem State.adjustMedia_keeps (st : Nat) (lost : SizeSet) (s : State) (k : Nat) :
    s.Keeps (State.adjustMedia st lost s k) := by
  unfold State.adjustMedia
  split
  · exact .cond (State.returnEntry_keeps _ _ _ _) (.refl s)
  · exact .refl s

theorem State.adjustEntry_keeps (st : Nat) (colourLost : Bool) (lost : SizeSet) (s : State) (k : Nat) :
    s.Keeps (State.adjustEntry st colourLost lost s k) :=
  .trans (.cond (State.adjustColour_keeps st s k) (.refl s)) (State.adjustMedia_keeps _ _ _ _)

theorem State.adjustWaiting_keeps (s : State) (st : Nat) {f : State → Nat → State}
    (hf : ∀ (s : State) k, s.Keeps (f s k)) : s.Keeps (s.adjustWaiting st f) := by
  unfold State.adjustWaiting; split
  · exact .fold hf _ _
  · exact .refl s

theorem State.mapQueue_kept (s : State) (st : Nat) (f : Entry → Entry) : s.Kept (s.mapQueue st f) :=
  State.updateStation_kept _ _ _

theorem State.handOver_keeps (s : State) (st : Nat) : s.Keeps (s.handOver st) := by
  unfold State.handOver
  split
  · exact .refl s
  · split
    · exact ((State.mapQueue_kept _ _ _).trans (State.sendCheck_kept _ _)).keeps
    · exact ((State.mapQueue_kept _ _ _).keeps.trans
        (State.adjustWaiting_keeps _ _ fun s k => State.adjustColour_keeps st s k)).trans (State.sendCheck_kept _ _).keeps
    · exact .trans (.cond (State.mapQueue_kept _ _ _).keeps (State.returnWaiting_keeps _ _ _ _))
        (State.mapQueue_kept _ _ _).keeps
    · exact .refl s
    · exact .refl s

theorem State.clearWindowEnds_keeps (s : State) (st : Nat) : s.Keeps (s.clearWindowEnds st) :=
  (State.returnWaiting_keeps _ _ _ _).trans (State.sendCheck_kept _ _).keeps

theorem State.withdraw_kept (s : State) (st : Nat) (j : Job) : s.Kept (s.withdraw st j) :=
  State.handCommand_kept _ _ rfl

/-! ### Faults -/

/-- A change of the fault table that keeps every entry's station and class. -/
theorem State.faults_kept {s : State} {n : Nat} {f : FaultEntry → FaultEntry}
    (hf : ∀ x, (f x).station = x.station ∧ (f x).cls = x.cls) : s.Kept { s with faults := s.faults.update n f } :=
  { faults := fun h => Table.sorted_update h _ _
    classes := Table.all_update fun k x h => by simpa [hf x] using h }

theorem State.setLink_kept (s : State) (st : Nat) (c : FaultClass) (l : CalloutLink) : s.Kept (s.setLink st c l) :=
  State.faults_kept fun _ => ⟨rfl, rfl⟩

theorem State.putCallout_kept (s : State) (n : Nat) (x : Callout) : s.Kept { s with callouts := s.callouts.put n x } :=
  { callouts := fun h => Table.sorted_put h _ _ }

theorem State.openCallout_kept (s : State) (st : Nat) (c : FaultClass) : s.Kept (s.openCallout st c) := by
  refine State.Kept.trans ?_ (State.notify_kept _ _)
  refine State.Kept.trans ?_ (State.setLink_kept _ _ _ _)
  exact { callouts := fun h => Table.sorted_put h _ _ }

theorem State.recurCallout_kept (s : State) (n : Nat) (x : Callout) : s.Kept (s.recurCallout n x) :=
  ((State.putCallout_kept _ _ _).trans (State.setLink_kept _ _ _ _)).trans (State.notify_kept _ _)

theorem State.fallDue_kept (s : State) (st : Nat) (c : FaultClass) : s.Kept (s.fallDue st c) := by
  unfold State.fallDue; split
  · exact State.recurCallout_kept _ _ _
  · refine .cond (State.openCallout_kept _ _ _) ?_
    exact (State.setLink_kept s st c (.pending s.clock)).trans {}

theorem State.servePending_kept (s : State) : s.Kept s.servePending := by
  unfold State.servePending; split
  · exact .refl s
  · exact State.Kept.trans (t := { s with pendingFaults := _ }) {} (State.openCallout_kept _ _ _)

theorem State.servePendingTimes_kept (n : Nat) (s : State) : s.Kept (State.servePendingTimes n s) := by
  induction n generalizing s with
  | zero => exact .refl s
  | succ n ih => exact (State.servePending_kept s).trans (ih _)

theorem State.resolveCallout_kept (s : State) (n : Nat) : s.Kept (s.resolveCallout n) := by
  unfold State.resolveCallout; split
  · exact .cond (.refl s) ((State.putCallout_kept _ _ _).trans (State.notify_kept _ _))
  · exact .refl s

theorem State.reorderOpened_kept (s : State) (st : Nat) (col : Toner) : s.Kept (s.reorderOpened st col) := by
  unfold State.reorderOpened; split
  · split
    · exact .cond (State.setLink_kept _ _ _ _) (.refl s)
    · exact .refl s
  · exact .refl s

theorem State.suppressionEnds_kept (s : State) (st : Nat) (col : Toner) : s.Kept (s.suppressionEnds st col) := by
  unfold State.suppressionEnds; split
  · split
    · exact .cond (State.fallDue_kept _ _ _) (.refl s)
    · exact .refl s
  · exact .refl s

theorem State.faultsChanged_keeps (s : State) (st : Nat) : s.Keeps (s.faultsChanged st) := by
  unfold State.faultsChanged; split
  · exact .refl s
  · split
    · exact .refl s
    · exact .refl s
    · exact .trans (.cond (.refl s) ((State.updateStation_kept _ _ _).trans (State.notify_kept _ _)).keeps)
        (State.handOver_keeps _ _)

theorem State.linkNewFault_kept (s : State) (st : Nat) (c : FaultClass) (cs : ColourSet) (b : Bool) :
    s.Kept (s.linkNewFault st c cs b) :=
  .cond (State.setLink_kept _ _ _ _) (.cond (State.setLink_kept _ _ _ _)
    (.cond (State.fallDue_kept _ _ _) (State.setLink_kept _ _ _ _)))

theorem State.createFault_keeps (s : State) (st : Nat) (c : FaultClass) (cs : ColourSet) :
    s.Keeps (s.createFault st c cs) := by
  refine State.Keeps.trans ?_ (State.faultsChanged_keeps _ _)
  refine State.Kept.keeps (State.Kept.trans ?_ (State.linkNewFault_kept _ _ _ _ _))
  exact { faults := fun h => Table.sorted_put h _ _, classes := Table.all_put rfl }

theorem State.addColours_keeps (s : State) (st : Nat) (f : FaultEntry) (cs : ColourSet) :
    s.Keeps (s.addColours st f cs) := by
  have h : s.Kept { s with
      faults := s.faults.update (faultKey st .toner) (fun f => { f with colours := f.colours.union cs }) } :=
    State.faults_kept fun _ => ⟨rfl, rfl⟩
  refine State.Keeps.trans ?_ (State.faultsChanged_keeps _ _)
  split
  · exact (h.trans (.cond (.refl _) (State.fallDue_kept _ _ _))).keeps
  · exact h.keeps

theorem State.setFault_keeps (s : State) (st : Nat) (c : FaultClass) (cs : ColourSet) : s.Keeps (s.setFault st c cs) := by
  unfold State.setFault; split
  · exact State.createFault_keeps _ _ _ _
  · exact .cond (State.addColours_keeps _ _ _ _) (.refl s)

theorem State.removeFault_kept (s : State) (st : Nat) (c : FaultClass) (f : FaultEntry) :
    s.Kept (s.removeFault st c f) := by
  have h : s.Kept { s with faults := s.faults.remove (faultKey st c) } :=
    { faults := fun h => Table.sorted_remove h _, classes := fun h p hp => h p (Table.mem_remove hp) }
  unfold State.removeFault; split
  · exact h
  · exact h
  · exact h.trans {}
  · exact h.trans (State.resolveCallout_kept _ _)

theorem State.takeColours_kept (s : State) (st : Nat) {f : FaultEntry} (hf : s.faultAt st .toner = some f)
    (cs : ColourSet) : s.Kept (s.takeColours st f cs) :=
  { faults := fun h => Table.sorted_put h _ _
    classes := fun h => by
      have := h _ (Table.mem_of_fetch _ hf)
      exact Table.all_put this h }

theorem State.clearFault_keeps (s : State) (st : Nat) (c : FaultClass) (cs : ColourSet) :
    s.Keeps (s.clearFault st c cs) := by
  unfold State.clearFault; split
  · exact .refl s
  · rename_i f hf
    split
    · exact .cond (.refl s) (.cond
        ((State.removeFault_kept _ _ _ _).keeps.trans (State.faultsChanged_keeps _ _))
        ((State.takeColours_kept _ _ hf _).keeps.trans (State.faultsChanged_keeps _ _)))
    · exact (State.removeFault_kept _ _ _ _).keeps.trans (State.faultsChanged_keeps _ _)

theorem State.startDelay_kept (st : Nat) (s : State) (c : FaultClass) : s.Kept (State.startDelay st s c) := by
  unfold State.startDelay; split
  · split
    · exact .cond (State.setLink_kept _ _ _ _) (.cond (State.fallDue_kept _ _ _) (State.setLink_kept _ _ _ _))
    · exact .refl s
  · exact .refl s

theorem State.startDelays_kept (s : State) (st : Nat) : s.Kept (s.startDelays st) :=
  .fold (fun s c => State.startDelay_kept st s c) _ _

end Sys2Proof.Machine
end

