-- ==== Sys2Proof/Laws/KeptBlocks.lean ====
section
/-! SUPPORT. The operations of the planner, the directory, the release engine and the riser controllers keep the
invariants: one lemma an operation, in the order of the definition files. -/

namespace Sys2Proof.Machine

/-! ### Planner -/

theorem State.putConsumable_kept (s : State) (st : Nat) (col : Toner) (r : Consumable) :
    s.Kept (s.putConsumable st col r) := { consumables := fun h => Table.sorted_put h _ _ }

theorem State.attribute_kept (s : State) (st : Nat) (n : Counts) : s.Kept (s.attribute st n) :=
  { consumables := fun h => Table.sorted_update (Table.sorted_update (Table.sorted_update
      (Table.sorted_update h _ _) _ _) _ _) _ _ }

theorem State.setSuppliesUsed_kept (s : State) (t : Nat) (f : Nat → Nat) : s.Kept (s.setSuppliesUsed t f) :=
  State.tenant_kept fun _ => id

theorem State.updateReorder_kept (s : State) (n : Nat) (f : Reorder → Reorder) : s.Kept (s.updateReorder n f) := {}

theorem State.setOpenReorder_kept (s : State) (st : Nat) (col : Toner) (n : Option Nat) :
    s.Kept (s.setOpenReorder st col n) := { consumables := fun h => Table.sorted_update h _ _ }

theorem State.joinReorder_kept (s : State) (rs : List Reorder) (next st : Nat) (col : Toner) (n : Option Nat) :
    s.Kept (({ s with reorders := rs, nextReorder := next } : State).setOpenReorder st col n) :=
  { consumables := fun h => Table.sorted_update h _ _ }

theorem State.createReorder_kept (s : State) (st : Nat) (col : Toner) (t : Nat) (cause : ReorderCause)
    (level cover : Nat) : s.Kept (s.createReorder st col t cause level cover) := by
  unfold State.createReorder
  refine State.Kept.trans (State.Kept.trans ?_ (State.notify_kept _ _)) (State.reorderOpened_kept _ _ _)
  exact .cond ((State.joinReorder_kept _ _ _ _ _ _).trans (State.setSuppliesUsed_kept _ _ _))
    (State.joinReorder_kept _ _ _ _ _ _)

theorem State.dropReorder_kept (s : State) (r : Reorder) : s.Kept (s.dropReorder r) :=
  State.Kept.trans (t := { s with reorders := s.reorders.filter (fun x => x.number ≠ r.number) }) {}
    (State.setOpenReorder_kept _ _ _ _)

theorem State.cancelOne_kept (s : State) (r : Reorder) : s.Kept (s.cancelOne r) :=
  (((State.Kept.cond (.refl s) (State.setSuppliesUsed_kept _ _ _)).trans (State.dropReorder_kept _ _)).trans
    (State.notify_kept _ _)).trans (State.suppressionEnds_kept _ _ _)

theorem State.cancelReorders_kept (s : State) (p : Reorder → Bool) : s.Kept (s.cancelReorders p) :=
  (State.countChoices_kept s _).trans (.fold State.cancelOne_kept _ _)

theorem State.promoteOne_kept (s : State) (r : Reorder) : s.Kept (s.promoteOne r) :=
  .cond (((State.updateReorder_kept _ _ _).trans (State.setSuppliesUsed_kept _ _ _)).trans (State.notify_kept _ _))
    (.refl s)

theorem State.endSuppliesPeriod_kept (s : State) : s.Kept s.endSuppliesPeriod :=
  State.Kept.trans (t := { s with tenants := s.tenants.mapRecords (fun _ t => { t with suppliesUsed := 0 }) })
    { usedTenants := Table.all_mapRecords fun _ _ => id, tenants := fun h => Table.sorted_mapRecords h _ }
    (.fold State.promoteOne_kept _ _)

theorem State.evaluate_kept (st : Nat) (s : State) (col : Toner) : s.Kept (State.evaluate st s col) := by
  unfold State.evaluate
  split
  · exact .refl s
  · have h := State.putConsumable_kept s st col
    split
    · exact h _
    · refine .cond (h _) ?_
      split
      · exact .cond ((h _).trans (State.createReorder_kept _ _ _ _ _ _ _)) (h _)
      · exact h _

theorem State.evaluateStation_kept (s : State) (st : Nat) : s.Kept (s.evaluateStation st) :=
  .fold (fun s col => State.evaluate_kept st s col) _ _

theorem State.install_kept (s : State) (st : Nat) (col : Toner) (r : Consumable) (n : Nat) :
    s.Kept (s.install st col r n) := by
  unfold State.install
  have h := State.putConsumable_kept s st col
  split
  · exact h _
  · split
    · exact ((h _).trans (State.dropReorder_kept _ _)).trans (State.notify_kept _ _)
    · exact h _

theorem State.takeLevel_kept (st : Nat) (s : State) (p : Toner × Option Nat) : s.Kept (State.takeLevel st s p) := by
  unfold State.takeLevel
  split
  · split
    · exact State.putConsumable_kept _ _ _ _
    · exact .cond (State.putConsumable_kept _ _ _ _)
        (.cond (State.install_kept _ _ _ _ _) (State.putConsumable_kept _ _ _ _))
  · exact .refl s

theorem State.sample_kept (s : State) : s.Kept s.sample := by
  refine State.Kept.trans (State.Kept.trans
    (t := { s with consumables := s.consumables.mapRecords (fun _ r => r.sampled) }) ?_
    (.fold (fun s k => State.evaluate_kept (k / 4) s (tonerOf (k % 4))) _ _))
    (.fold (fun s st => State.handCommand_kept s st rfl) _ _)
  exact { consumables := fun h => Table.sorted_mapRecords h _ }

/-! ### Directory -/

theorem foldl_sorted {α β : Type} {f : Table α → β → Table α} (hf : ∀ t b, Table.Sorted t → Table.Sorted (f t b))
    (l : List β) (t : Table α) (h : Table.Sorted t) : Table.Sorted (l.foldl f t) := by
  induction l generalizing t with
  | nil => exact h
  | cons b l ih => exact ih _ (hf t b h)

theorem State.addConsumables_kept (s : State) (st : Nat) (cols : List Toner) : s.Kept (s.addConsumables st cols) :=
  { consumables := foldl_sorted (fun _ _ h => Table.sorted_put h _ _) _ _ }

theorem State.removeConsumables_kept (s : State) (st : Nat) (cols : List Toner) :
    s.Kept (s.removeConsumables st cols) :=
  { consumables := foldl_sorted (fun _ _ h => Table.sorted_remove h _) _ _ }

theorem State.createStation_kept (s : State) (st model : Nat) (colour duplex : Bool) (sizes : SizeSet) (seq : Bool) :
    s.Kept (s.createStation st model colour duplex sizes seq) := by
  refine State.Kept.trans (State.Kept.trans (State.Kept.trans ?_ (State.addConsumables_kept _ _ _))
    (State.handCommand_kept _ _ rfl)) (State.notify_kept _ _)
  exact
    { stations := fun h => Table.sorted_put h _ _
      links := fun h => Table.sorted_put h _ _
      commands := Table.all_put ⟨by simp, by simp, by simp⟩ }

theorem State.loseColour_keeps (s : State) (st : Nat) : s.Keeps (s.loseColour st) :=
  ((State.clearFault_keeps _ _ _ _).trans (State.cancelReorders_kept _ _).keeps).trans
    (State.removeConsumables_kept _ _ _).keeps

theorem State.capabilitiesChanged_keeps (s : State) (st : Nat) (old new : Station) :
    s.Keeps (s.capabilitiesChanged st old new) := by
  unfold State.capabilitiesChanged
  have h1 : s.Keeps (if (old.colour && !new.colour) = true then s.loseColour st else s) :=
    .cond (State.loseColour_keeps s st) (.refl s)
  have h2 := fun (a : State) => State.Keeps.cond (s := a) (c := (new.colour && !old.colour) = true)
    ((State.addConsumables_kept a st colourToners).trans (State.handCommand_kept _ st (c := .queryLevels) rfl)).keeps
    (.refl a)
  have h3 := h1.trans (h2 _)
  exact .cond ((h3.trans (State.adjustWaiting_keeps _ _ fun s k => State.adjustEntry_keeps _ _ _ s k)).trans
    (State.sendCheck_kept _ _).keeps) h3

theorem State.putStation_kept (s : State) (st : Nat) (x : Station) : s.Kept { s with stations := s.stations.put st x } :=
  { stations := fun h => Table.sorted_put h _ _ }

/-! ### Settlement and expiries -/

theorem State.remind_kept (s : State) (p : Nat × Callout) : s.Kept (s.remind p) :=
  .cond (State.notify_kept _ _) (.refl s)

theorem State.ownerActs_kept (s : State) (n : Nat) : s.Kept (s.ownerActs n) := by
  unfold State.ownerActs; split
  · exact State.rollUsers_kept s
  · exact (State.rollTenants_kept s).trans (State.endSuppliesPeriod_kept _)
  · exact State.sample_kept s
  · exact .fold State.remind_kept _ _

theorem State.expire_kept (s : State) (e : Expiry) : s.Kept (s.expire e) :=
  (State.notify_kept _ _).trans (State.ownerActs_kept _ _)

theorem CountersOk.write {q : Quad Counter} (h : CountersOk q) (n : Nat) {c : Counter} (hc : c.inv) :
    CountersOk (q.write n c) := by
  obtain ⟨h0, h1, h2, h3⟩ := h
  unfold Quad.write; split <;> constructor <;> assumption

theorem CountersOk.item {q : Quad Counter} (h : CountersOk q) (n : Nat) : (q.item n).inv := by
  obtain ⟨h0, h1, h2, h3⟩ := h
  unfold Quad.item; split <;> assumption

theorem State.takeUnits_kept (n k units : Nat) (s : State) : s.Kept (State.takeUnits n k units s) := by
  induction k generalizing units s with
  | zero => exact .refl s
  | succ k ih =>
    unfold State.takeUnits
    simp only []
    split
    · rename_i hlt
      refine { counters := fun h => h.write n ?_ }
      have := h.item n
      obtain ⟨h1, h2⟩ := this
      refine ⟨by simp only []; omega, ?_⟩
      simp only []; omega
    · refine State.Kept.trans (State.Kept.trans ?_ (State.expire_kept _ _)) (ih _ _)
      exact { counters := fun h => h.write n ⟨Nat.le_refl _, Iff.rfl⟩ }

theorem State.takeImpressions_kept (s : State) (units : Nat) : s.Kept (s.takeImpressions units) :=
  (State.countChoices_kept s _).trans (.fold (fun s n => State.takeUnits_kept n _ _ s) _ _)

theorem State.addLifetime_kept (s : State) (st : Nat) (n : Counts) : s.Kept (s.addLifetime st n) :=
  State.updateStation_kept _ _ _

theorem State.reportCancelled_kept (s : State) (j : Job) : s.Kept (s.reportCancelled j) :=
  .cond (State.notify_kept _ _) (.refl s)

theorem State.settle_kept (s : State) (j : Job) (c : Charging) (n : Nat) : s.Kept (s.settle j c n) :=
  (State.settleUser_kept _ _ _ _).trans (State.settleTenant_kept _ _ _ _)

theorem State.endJob_keeps (s : State) (st : Nat) {j : Job} (hj : s.Stands j) (c : Charging) (raw : Counts)
    (notice : Nat → Counts → NoticeBody) : s.Keeps (s.endJob st j c raw notice) := by
  unfold State.endJob
  refine State.Keeps.trans (State.Keeps.trans (State.Keeps.trans (State.Kept.delete ?_ hj)
    (State.reportCancelled_kept _ _).keeps) (State.takeImpressions_kept _ _).keeps) (State.sendCheck_kept _ _).keeps
  exact ((((State.settle_kept _ _ _ _).trans (State.notify_kept _ _)).trans (State.addLifetime_kept _ _ _)).trans
    (State.attribute_kept _ _ _)).trans (State.removeEntry_kept _ _ _)

/-! ### Release -/

theorem State.reportBusy_kept (s : State) (st : Nat) (x : Station) : s.Kept (s.reportBusy st x) :=
  .cond (State.notify_kept _ _) (.refl s)

theorem State.releaseJob_kept (s : State) (st : Nat) (x : Station) (j : Job) (c : Charging) :
    s.Kept (s.releaseJob st x j c) :=
  (((State.reserve_kept _ _ _ _).trans
    (State.updateJob_kept _ _ (f := fun j => { j with state := .queued, charging := some c }) fun _ => ⟨rfl, rfl⟩)).trans
    (State.updateStation_kept _ _ _)).trans (State.reportBusy_kept _ _ _)

theorem State.examine_kept (st n : Nat) (hs : List Nat) (s : State) : s.Kept (State.examine st n hs s).1 := by
  induction hs generalizing s with
  | nil => exact .refl s
  | cons h hs ih =>
    unfold State.examine
    split
    · split
      · exact .refl s
      · exact ih s
      · exact (State.releaseJob_kept _ _ _ _ _).trans (ih _)
      · exact ih s
    · exact ih s

theorem State.present_kept (s : State) (st : Nat) (x : Station) (found : Option (Nat × User)) :
    s.Kept (s.present st x found).1 := by
  unfold State.present
  split
  · exact .refl s
  · split
    · exact .refl s
    · exact .refl s
    · split
      · exact .refl s
      · exact State.examine_kept _ _ _ _

theorem State.presentBadge_kept (s : State) (st badge : Nat) : s.Kept (s.presentBadge st badge) := by
  unfold State.presentBadge
  split
  · exact .refl s
  · rename_i x _
    have h := (State.present_kept s st x (s.badgeHolder badge)).trans
      (State.handShow_kept _ st (s.present st x (s.badgeHolder badge)).2.1)
    exact .cond (h.trans (State.sendCheck_kept _ _)) h

theorem State.updateEntry_kept (s : State) (st k : Nat) (f : Entry → Entry) : s.Kept (s.updateEntry st k f) :=
  State.mapQueue_kept _ _ _

theorem State.startJob_kept (s : State) (st : Nat) (j : Job) : s.Kept (s.startJob st j) := by
  unfold State.startJob; split
  · exact (State.updateJob_kept _ _ (f := fun j => { j with state := .printing }) fun _ => ⟨rfl, rfl⟩).trans
      (State.updateEntry_kept _ _ _ _)
  · exact .refl s

theorem State.stands_of_match {s : State} {st token : Nat} {j : Job} {c : Charging}
    (h : s.matchReport st token = some (j, c)) : s.Stands j := by
  unfold State.matchReport at h
  split at h
  · rename_i hj _
    split at h
    · split at h
      · cases h; exact State.stands_of_fetch hj
      · cases h
    · cases h
  · cases h

theorem State.reportStart_kept (s : State) (st token : Nat) : s.Kept (s.reportStart st token) := by
  unfold State.reportStart; split
  · exact State.startJob_kept _ _ _
  · exact .refl s

theorem State.reportProgress_kept (s : State) (st token : Nat) (n : Counts) : s.Kept (s.reportProgress st token n) := by
  unfold State.reportProgress; split
  · exact (State.startJob_kept _ _ _).trans
      (State.updateJob_kept _ _ (f := fun j => { j with progress := some n.clamped }) fun _ => ⟨rfl, rfl⟩)
  · exact .refl s

theorem State.reportEnd_keeps (s : State) (st token : Nat) (n : Counts) (r : Option AbortReason) :
    s.Keeps (s.reportEnd st token n r) := by
  unfold State.reportEnd; split
  · rename_i h; exact State.endJob_keeps _ _ (State.stands_of_match h) _ _ _
  · exact .refl s

theorem State.stands_of_entry {s : State} {slot : Nat} {j : Job} {c : Charging} {e : Entry}
    (h : s.entryOfSlot slot = some (j, c, e)) : s.Stands j := by
  unfold State.entryOfSlot at h
  split at h
  · rename_i hj
    split at h
    · split at h
      · obtain ⟨_, _, he⟩ := Option.map_eq_some_iff.1 h
        cases he; exact State.stands_of_fetch hj
      · cases h
    · cases h
  · cases h

theorem State.holdFallsDue_keeps (s : State) (slot : Nat) : s.Keeps (s.holdFallsDue slot) := by
  unfold State.holdFallsDue; split
  · exact State.expireIfPassed_keeps _ _
  · exact .refl s

theorem State.commitFallsDue_keeps (s : State) (slot : Nat) : s.Keeps (s.commitFallsDue slot) := by
  unfold State.commitFallsDue; split
  · exact .cond ((State.sendBack_keeps _ _ _ _).trans (State.sendCheck_kept _ _).keeps) (.refl s)
  · exact .refl s

theorem State.startFallsDue_keeps (s : State) (slot : Nat) : s.Keeps (s.startFallsDue slot) := by
  unfold State.startFallsDue; split
  · rename_i j c e h
    refine .cond (State.Keeps.trans (.cond ?_ ?_) (State.sendCheck_kept _ _).keeps) (.refl s)
    · refine (State.Kept.delete ?_ (State.stands_of_entry h)).trans (State.notify_kept _ _).keeps
      exact ((State.withdraw_kept _ _ _).trans (State.removeEntry_kept _ _ _)).trans (State.releaseReservation_kept _ _)
    · exact (State.withdraw_kept _ _ _).keeps.trans (State.returnEntry_keeps _ _ _ _)
  · exact .refl s

theorem State.abandonFallsDue_keeps (s : State) (slot : Nat) : s.Keeps (s.abandonFallsDue slot) := by
  unfold State.abandonFallsDue; split
  · rename_i j c e h
    refine .cond ?_ (.refl s)
    have hf : (s.withdraw c.station j).jobs.fetch slot = some j := by
      unfold State.entryOfSlot at h
      split at h
      · rename_i hj
        split at h
        · split at h
          · obtain ⟨_, _, he⟩ := Option.map_eq_some_iff.1 h
            cases he; exact hj
          · cases h
        · cases h
      · cases h
    exact (State.withdraw_kept _ _ _).keeps.trans (State.endJob_keeps _ _ (State.stands_of_fetch hf) _ _ _)
  · exact .refl s

theorem State.faultFallsDue_keeps (s : State) (st : Nat) (c : FaultClass) : s.Keeps (s.faultFallsDue st c) := by
  unfold State.faultFallsDue; split
  · split
    · exact .cond (.cond ((State.fallDue_kept _ _ _).keeps.trans (State.clearWindowEnds_keeps _ _))
        (State.fallDue_kept _ _ _).keeps) (.refl s)
    · exact .refl s
  · exact .refl s

theorem State.tierFallsDue_kept (s : State) (n : Nat) : s.Kept (s.tierFallsDue n) := by
  unfold State.tierFallsDue; split
  · exact .cond (.cond ((State.putCallout_kept _ _ _).trans (State.notify_kept _ _))
      ((State.putCallout_kept _ _ _).trans (State.notify_kept _ _))) (.refl s)
  · exact .refl s

theorem State.reorderFallsDue_kept (s : State) (n : Nat) : s.Kept (s.reorderFallsDue n) := by
  unfold State.reorderFallsDue; split
  · split
    · exact .cond (((State.updateReorder_kept _ _ _).trans (State.notify_kept _ _)).trans
        (State.suppressionEnds_kept _ _ _)) (.refl s)
    · exact .refl s
  · exact .refl s

theorem State.fallsDue_keeps (s : State) (d : Deadline) : s.Keeps (s.fallsDue d) := by
  unfold State.fallsDue; split
  · exact State.holdFallsDue_keeps _ _
  · exact State.commitFallsDue_keeps _ _
  · exact State.startFallsDue_keeps _ _
  · exact State.abandonFallsDue_keeps _ _
  · exact State.faultFallsDue_keeps _ _ _
  · exact (State.tierFallsDue_kept _ _).keeps
  · exact (State.reorderFallsDue_kept _ _).keeps

theorem State.allFallDue_keeps (s : State) : s.Keeps s.allFallDue :=
  (State.countChoices_kept s _).keeps.trans (.fold State.fallsDue_keeps _ _)

/-! ### Riser links -/

theorem State.updateRiser_kept (s : State) (r : Nat) (f : Riser → Riser) : s.Kept (s.updateRiser r f) := {}

/-- A change of one link that leaves its command lists. -/
theorem State.updateLink_kept (s : State) (st : Nat) {f : Link → Link}
    (h : ∀ l : Link, (f l).commands = l.commands ∧ (f l).held = l.held) : s.Kept (s.updateLink st f) :=
  State.links_kept fun l hl => by
    obtain ⟨h1, h2⟩ := h l
    exact ⟨by rw [h1]; exact hl.size, by rw [h1]; exact hl.shows, by rw [h2]; exact hl.held⟩

theorem State.pass_kept (r n d : Nat) (s : State) : s.Kept (State.pass r n d s).2 := by
  induction n generalizing d s with
  | zero => exact .refl s
  | succ n ih =>
    unfold State.pass
    split
    · exact .refl s
    · exact (State.updateLink_kept s _ (f := fun l => { l with phase := l.phase - 1 }) fun _ => ⟨rfl, rfl⟩).trans (ih _ _)

theorem State.sendPoll_kept (s : State) (r d made : Nat) : s.Kept (s.sendPoll r d made) := {}

theorem State.nextPoll_kept (s : State) (r : Nat) : s.Kept (s.nextPoll r) := by
  unfold State.nextPoll
  simp only []
  split
  · exact .refl s
  · split
    · exact State.sendPoll_kept _ _ _ _
    · have h1 := State.pass_kept r (25 - (s.risers.item r).position) (s.risers.item r).position s
      split
      · rename_i hp; rw [hp] at h1; exact h1.trans (State.sendPoll_kept _ _ _ _)
      · rename_i s' hp
        rw [hp] at h1
        refine .cond (.refl s) ?_
        have h2 := h1.trans (State.updateRiser_kept s' r (fun x => { x with position := 1 }))
        have h3 := State.pass_kept r 24 1 (s'.updateRiser r (fun x => { x with position := 1 }))
        split
        · rename_i hq; rw [hq] at h3; exact (h2.trans h3).trans (State.sendPoll_kept _ _ _ _)
        · exact h2

theorem State.idleCycle_kept (s : State) (r : Nat) : s.Kept (s.idleCycle r) := by
  unfold State.idleCycle
  simp only []
  split
  · exact .refl s
  · have h := State.pass_kept r 24 1 s
    split
    · exact .refl s
    · rename_i hp; rw [hp] at h; exact h

theorem State.endVisit_kept (s : State) (r d : Nat) : s.Kept (s.endVisit r d) := State.updateRiser_kept _ _ _

theorem State.afterGood_kept (s : State) (r : Nat) (p : AwaitedPoll) (b : Bool) : s.Kept (s.afterGood r p b) :=
  .cond (State.updateRiser_kept _ _ _) (State.endVisit_kept _ _ _)

theorem Link.missed_lists (l : Link) : l.missed.commands = l.commands ∧ l.missed.held = l.held := by
  unfold Link.missed; split
  · exact ⟨rfl, rfl⟩
  · split <;> exact ⟨rfl, rfl⟩

theorem State.regularMiss_keeps (s : State) (r : Nat) (p : AwaitedPoll) : s.Keeps (s.regularMiss r p) := by
  have h := ((State.endVisit_kept s r p.drop).trans
    (State.updateLink_kept _ (stationAt r p.drop) Link.missed_lists)).keeps
  unfold State.regularMiss; simp only []
  split
  · exact .cond (h.trans (State.setFault_keeps _ _ _ _)) h
  · exact h

theorem State.takeLevels_kept (s : State) (st : Nat) (ls : List (Toner × Option Nat)) : s.Kept (s.takeLevels st ls) :=
  (State.Kept.fold (fun s p => State.takeLevel_kept st s p) _ _).trans (State.evaluateStation_kept _ _)

theorem State.resumeStation_kept (s : State) (st : Nat) : s.Kept (s.resumeStation st) := by
  unfold State.resumeStation; split
  · exact .cond ((State.updateStation_kept _ _ _).trans (State.sendCheck_kept _ _)) (.refl s)
  · exact .refl s

theorem State.refreshStation_keeps (s : State) (st model caps sizes : Nat) :
    s.Keeps (s.refreshStation st model caps sizes) := by
  unfold State.refreshStation; split
  · exact (State.putStation_kept _ _ _).keeps.trans (State.capabilitiesChanged_keeps _ _ _ _)
  · exact .refl s

theorem State.route_keeps (s : State) (st : Nat) (ev : LinkEvent) : s.Keeps (s.route st ev) := by
  unfold State.route
  split
  · exact .refl s
  · cases ev with
    | idle => exact .refl s
    | hello m c z => exact .cond (State.refreshStation_keeps _ _ _ _ _) (.refl s)
    | badge b => exact (State.presentBadge_kept _ _ _).keeps
    | jobStart tok => exact (State.reportStart_kept _ _ _).keeps
    | jobProgress tok n => exact (State.reportProgress_kept _ _ _ _).keeps
    | jobEnd tok n => exact State.reportEnd_keeps _ _ _ _ _
    | jobAbort tok n r => exact State.reportEnd_keeps _ _ _ _ _
    | levels k c m y => exact (State.takeLevels_kept _ _ _).keeps
    | faultSet c cs =>
      simp only []; split
      · exact State.setFault_keeps _ _ _ _
      · exact .refl s
    | faultClear c cs =>
      simp only []; split
      · exact State.clearFault_keeps _ _ _ _
      · exact .refl s
    | pause => exact (State.updateStation_kept _ _ _).keeps
    | resume => exact (State.resumeStation_kept _ _).keeps
    | unknown => exact .refl s

theorem State.linkHealth_keeps (s : State) (st : Nat) (l : Link) : s.Keeps (s.linkHealth st l) := by
  have h := State.updateLink_kept s st
    (f := fun k => { k with misses := 0, silent := false, phase := if k.silent then 0 else k.phase }) fun _ => ⟨rfl, rfl⟩
  exact .cond (h.keeps.trans (State.clearFault_keeps _ _ _ _)) h.keeps

theorem State.commandTaken_kept (s : State) (st : Nat) (p : AwaitedPoll) (b : Bool) : s.Kept (s.commandTaken st p b) := by
  unfold State.commandTaken; split
  · exact .cond (State.links_kept fun _ h => Link.taken_inv h _) (.refl s)
  · exact .refl s

theorem State.takeEvent_keeps (s : State) (st : Nat) (l : Link) (seq : Bool) (ev : LinkEvent) :
    s.Keeps (s.takeEvent st l seq ev) :=
  .cond ((State.updateLink_kept s st (f := fun l => { l with accepted := some seq }) fun _ => ⟨rfl, rfl⟩).keeps.trans
    (State.route_keeps _ _ _)) (.refl s)

theorem State.goodReply_keeps (s : State) (r : Nat) (p : AwaitedPoll) (h : ReplyHeader) (ev : LinkEvent) :
    s.Keeps (s.goodReply r p h ev) := by
  have k := (State.afterGood_kept s r p (ev = .idle)).keeps
  unfold State.goodReply; simp only []
  split
  · exact ((k.trans (State.linkHealth_keeps _ _ _)).trans (State.commandTaken_kept _ _ _ _).keeps).trans
      (State.takeEvent_keeps _ _ _ _ _)
  · exact k

theorem State.countTrial_kept (s : State) (r d : Nat) (b : Bool) : s.Kept (s.countTrial r d b) := by
  unfold State.countTrial; split
  · exact .refl s
  · exact .cond ((State.updateRiser_kept _ _ _).trans (State.notify_kept _ _)) (State.updateRiser_kept _ _ _)

theorem State.trialOutcome_kept (s : State) (r : Nat) (p : AwaitedPoll) (t : TrialReply) : s.Kept (s.trialOutcome r p t) := by
  have h := State.endVisit_kept s r p.drop
  unfold State.trialOutcome; simp only []
  split
  · exact .cond ((h.trans (State.createStation_kept _ _ _ _ _ _ _)).trans (State.countTrial_kept _ _ _ _))
      (h.trans (State.countTrial_kept _ _ _ _))
  · exact h.trans (State.countTrial_kept _ _ _ _)
  · exact h.trans (State.countTrial_kept _ _ _ _)

/-! ### TXD -/

theorem State.answerOverflow_kept (s : State) : s.Kept s.answerOverflow := by
  unfold State.answerOverflow; split
  · exact .refl s
  · exact {}

theorem State.sendNext_kept (s : State) : s.Kept s.sendNext := by
  unfold State.sendNext; split
  · exact State.answerOverflow_kept s
  · exact {}
  · exact {}

theorem State.idles_kept (s : State) : s.Kept s.idles := .cond (.refl s) (State.sendNext_kept s)

end Sys2Proof.Machine
end

