-- ==== Sys2Proof/Laws/Requests.lean ====
section
/-! SUPPORT. What a request command does, once for all request commands: when its turn has come it is carried out
by its rule and answered, and otherwise nothing changes (R182, R183). -/

namespace Sys2Proof.Machine

/-- The oldest request's turn: it leaves the queue and is carried out. -/
theorem State.serve_front {s : State} {q : Request} {rest : List Request} {mine : Request → Bool} (rule : Rule)
    (hr : s.resetHeld = false) (hq : s.requests = q :: rest) (hm : mine q = true) :
    s.serve mine rule = (s.leaving rest).carryOut q rule := by
  simp [State.serve, hr, hq, hm, State.leaving]

/-- A request command on a state where it is a request's turn. -/
theorem onRequest_turn {s : State} {k : Kind} {q : Request} {rest : List Request} (rule : Rule)
    (h : s.Turn k q rest) : onRequest k rule s = .next ((s.leaving rest).carryOut q rule) :=
  congrArg Host.Outcome.next (State.serve_front (mine := fun q => q.isKind k) rule h.running h.front h.kind)

/-- A rule that accepts: its state is left, and the answer is OK or ACCEPTED. -/
theorem State.carryOut_ok {s : State} {q : Request} {rule : Rule} {d : Done} (h : rule q s = .ok d) :
    s.carryOut q rule = d.state.reply q (if d.accepted then .accepted d.body else .ok d.body) := by
  simp [State.carryOut, h]

/-- A rule that refuses: nothing changes but the reply. -/
theorem State.carryOut_error {s : State} {q : Request} {rule : Rule} {r : Reason} (h : rule q s = .error r) :
    s.carryOut q rule = s.reply q (.refused r) := by
  simp [State.carryOut, h]

/-- A request command that is refused leaves every record (R183). -/
theorem onRequest_refused {s : State} {k : Kind} {q : Request} {rest : List Request} {rule : Rule} {r : Reason}
    (h : s.Turn k q rest) (hr : rule q (s.leaving rest) = .error r) :
    onRequest k rule s = .next (s.answered rest q (.refused r)) := by
  rw [onRequest_turn rule h, State.carryOut_error hr]; rfl

/-- A request command that is accepted with its whole effect. -/
theorem onRequest_ok {s : State} {k : Kind} {q : Request} {rest : List Request} {rule : Rule} {t : State}
    {b : ReplyBody} (h : s.Turn k q rest) (hr : rule q (s.leaving rest) = .ok { state := t, body := b }) :
    onRequest k rule s = .next (t.reply q (.ok b)) := by
  rw [onRequest_turn rule h, State.carryOut_ok hr]; rfl

/-- A request command that is accepted with an effect that goes on. -/
theorem onRequest_accepted {s : State} {k : Kind} {q : Request} {rest : List Request} {rule : Rule} {t : State}
    {b : ReplyBody} (h : s.Turn k q rest)
    (hr : rule q (s.leaving rest) = .ok { state := t, accepted := true, body := b }) :
    onRequest k rule s = .next (t.reply q (.accepted b)) := by
  rw [onRequest_turn rule h, State.carryOut_ok hr]; rfl

@[simp] theorem require_true (r : Reason) : require true r = .ok () := rfl
@[simp] theorem require_false (r : Reason) : require false r = .error r := rfl
@[simp] theorem demand_some {α : Type} (a : α) (r : Reason) : demand (some a) r = .ok a := rfl
@[simp] theorem demand_none {α : Type} (r : Reason) : demand (none : Option α) r = .error r := rfl
@[simp] theorem except_bind_ok {α β ε : Type} (a : α) (f : α → Except ε β) : (Except.ok a >>= f) = f a := rfl
@[simp] theorem except_bind_error {α β ε : Type} (e : ε) (f : α → Except ε β) :
    ((Except.error e : Except ε α) >>= f) = .error e := rfl

/-- A condition that holds is passed. -/
theorem require_of {b : Bool} (h : b = true) (r : Reason) : require b r = .ok () := by simp [h]

/-- A role that may not issue a kind fails step 1 of R9. -/
theorem authorise_no {k : Kind} {q : Request} (bound : List Binding) (s : State) (h : k.permission q.role = .no) :
    authorise k q bound s = .error .notPermitted := by simp [authorise, h]

/-- A tenant-bound role with an absent tenant fails step 2 of R9. -/
theorem authorise_absent {k : Kind} {q : Request} (bound : List Binding) (s : State) (hr : 2 ≤ q.role)
    (ht : s.tenants.has q.tenant = false) : authorise k q bound s = .error .notPermitted := by
  unfold authorise
  split
  · rfl
  · have : ¬ q.role < 2 := by omega
    simp [this, ht, require]

/-- Roles 0 and 1 pass where their column of R7 says yes. -/
theorem authorise_yes {k : Kind} {q : Request} (bound : List Binding) (s : State) (hr : q.role < 2)
    (h : k.permission q.role ≠ .no) : authorise k q bound s = .ok () := by simp [authorise, h, hr]

end Sys2Proof.Machine
end

