-- ==== Sys2Proof/Machine/Encode.lean ====
section
/-! DEFINITION. The byte layouts of what the part sends (R190 and section 10.7): reply frames, notice bodies, and
the polls and commands of the riser links.  The state holds replies, notices and commands as data, and these are
the bytes that stand for them on TXD and on the lines. -/

namespace Sys2Proof.Machine

/-! ### Fields (R190) -/

/-- A number in `w` bytes, most significant byte first. -/
def num : Nat → Nat → List Byte
  | 0, _ => []
  | w + 1, n => num w (n / 256) ++ [BitVec.ofNat 8 n]

/-- A yes/no or set/clear field. -/
def flag (b : Bool) : List Byte := [if b then 1#8 else 0#8]

/-- A field that may be absent, of `w` bytes (assumption 3). -/
def optional {α : Type} (w : Nat) (f : α → List Byte) : Option α → List Byte
  | some a => f a
  | none => Config.absentField w

/-- A list field: a two-byte count and the items. -/
def listField {α : Type} (f : α → List Byte) (xs : List α) : List Byte := num 2 xs.length ++ xs.flatMap f

/-- A signed remaining, which needs 33 bits: five bytes, two's complement (assumption 18). -/
def signed (i : Int) : List Byte := num 5 (BitVec.ofInt 40 i).toNat

/-- The fewest whole bytes that hold a number of at most two bytes (R190). -/
def fewest (n : Nat) : List Byte := if n < 256 then num 1 n else num 2 n

/-! ### Enumerations (R190; those its table does not list, assumption 4) -/

/-- A quota or supplies mode's byte. -/
def Mode.bytes : Mode → List Byte
  | .limited => num 1 0
  | .unlimited => num 1 1

/-- A user state's byte. -/
def UserState.bytes : UserState → List Byte
  | .active => num 1 0
  | .suspended => num 1 1

/-- A size class's code. -/
def SizeClass.code : SizeClass → Nat
  | .s => 0
  | .l => 1
  | .e => 2

/-- A job state's byte. -/
def JobState.bytes : JobState → List Byte
  | .receiving => num 1 0
  | .held => num 1 1
  | .queued => num 1 2
  | .printing => num 1 3

/-- An entry sub-state's byte. -/
def SubState.bytes : SubState → List Byte
  | .waiting => num 1 0
  | .sent => num 1 1

/-- A station state's byte. -/
def StationState.bytes : StationState → List Byte
  | .probation => num 1 0
  | .inService => num 1 1
  | .degraded => num 1 2
  | .outOfService => num 1 3
  | .parked => num 1 4

/-- The byte of a state after a change; a retired station's is 5. -/
def stateAfterBytes : Option StationState → List Byte
  | some x => x.bytes
  | none => num 1 5

/-- A callout state's byte. -/
def CalloutState.bytes : CalloutState → List Byte
  | .opened => num 1 0
  | .acknowledged => num 1 1
  | .stalled => num 1 2
  | .resolved => num 1 3

/-- A reorder state's byte. -/
def ReorderState.bytes : ReorderState → List Byte
  | .proposed => num 1 0
  | .deferred => num 1 1
  | .placed => num 1 2

/-- A counter source's byte. -/
def CounterSource.bytes : CounterSource → List Byte
  | .minutes => num 1 0
  | .impressions => num 1 1

/-- An account kind's byte. -/
def AccountKind.bytes : AccountKind → List Byte
  | .user => num 1 0
  | .tenant => num 1 1

/-- A restart kind's byte. -/
def RestartKind.bytes : RestartKind → List Byte
  | .jobs => num 1 0
  | .all => num 1 1

/-- A JOB DELETED cause's byte (10.7.5). -/
def DeleteCause.bytes : DeleteCause → List Byte
  | .cancel => num 1 0
  | .userRemoved => num 1 1

/-- A CALLOUT CLOSED cause's byte (10.7.5). -/
def CloseCause.bytes : CloseCause → List Byte
  | .request => num 1 0
  | .retired => num 1 1

/-- An abort reason's byte, as JOB ABORT carries it (10.7.7). -/
def AbortReason.bytes : AbortReason → List Byte
  | .other => num 1 0
  | .jam => num 1 1
  | .door => num 1 2
  | .paper => num 1 3
  | .toner => num 1 4
  | .service => num 1 5
  | .panel => num 1 6
  | .withdrawn => num 1 7

/-- A refusal reason's code (10.7.4). -/
def Reason.code : Reason → Nat
  | .unknownRequest => 1
  | .badLength => 2
  | .outOfRange => 3
  | .notPermitted => 4
  | .noSuch => 5
  | .wrongState => 6
  | .duplicate => 7
  | .full => 8
  | .limit => 9
  | .storeFull => 10
  | .busy => 11
  | .requestQueueFull => 12

/-- A display result's code (10.7.7). -/
def DisplayResult.code : DisplayResult → Nat
  | .release => 0
  | .notEnrolled => 1
  | .suspended => 2
  | .stationDown => 3
  | .notPermittedHere => 4
  | .nothingHeld => 5

/-- A first skip reason's code, 0 for none (10.7.7). -/
def skipCode : Option SkipReason → Nat
  | none => 0
  | some .media => 1
  | some .colour => 2
  | some .userQuota => 3
  | some .tenantQuota => 4
  | some .queueFull => 5

/-- A reorder cause's byte, which R190 does not list. -/
def ReorderCause.bytes : ReorderCause → List Byte
  | .cover => [Config.unlistedCode 0 0]
  | .floor => [Config.unlistedCode 0 1]

/-- A return reason's byte, which R190 does not list. -/
def ReturnReason.bytes : ReturnReason → List Byte
  | .noStart => [Config.unlistedCode 1 0]
  | .parked => [Config.unlistedCode 1 1]
  | .fault => [Config.unlistedCode 1 2]
  | .clearWindow => [Config.unlistedCode 1 3]
  | .colour => [Config.unlistedCode 1 4]
  | .media => [Config.unlistedCode 1 5]

/-- A probe outcome's byte, which R190 does not list. -/
def Verdict.bytes : Verdict → List Byte
  | .release => [Config.unlistedCode 2 0]
  | .releaseFallback => [Config.unlistedCode 2 1]
  | .skip r => [Config.unlistedCode 2 (1 + skipCode (some r))]

/-- A notice class's byte, which R190 does not list. -/
def NoticeClass.bytes : NoticeClass → List Byte
  | .job => [Config.unlistedCode 3 0]
  | .quota => [Config.unlistedCode 3 1]
  | .station => [Config.unlistedCode 3 2]
  | .supply => [Config.unlistedCode 3 3]
  | .callout => [Config.unlistedCode 3 4]
  | .clock => [Config.unlistedCode 3 5]

/-- A consumable's level; the code of UNKNOWN in a reply is not listed. -/
def levelBytes : Option Nat → List Byte
  | some l => num 1 l
  | none => [Config.unlistedCode 4 0]

/-! ### Sets -/

/-- The number whose bits are the members' numbers. -/
def bitSet (ms : List Nat) : Nat := (ms.map (fun m => 2 ^ m)).sum

/-- A tenant set's bytes; the members are distinct. -/
def tenantSetBytes (ts : List Nat) : List Byte := num 4 (bitSet ts)

/-- A fault class set's byte; the members are distinct. -/
def faultSetBytes (cs : List FaultClass) : List Byte := num 1 (bitSet (cs.map (fun c => classCode c - 1)))

/-- A colour set's byte. -/
def ColourSet.bytes (x : ColourSet) : List Byte := num 1 (bitSet (x.members.map tonerCode))

/-- A size class set's byte. -/
def SizeSet.bytes (x : SizeSet) : List Byte :=
  num 1 ((if x.s then 1 else 0) + (if x.l then 2 else 0) + (if x.e then 4 else 0))

/-- A notice class mask's byte (10.7.5). -/
def Mask.bytes (m : Mask) : List Byte :=
  num 1 ((if m.job then 1 else 0) + (if m.quota then 2 else 0) + (if m.station then 4 else 0) +
    (if m.supply then 8 else 0) + (if m.callout then 16 else 0) + (if m.clock then 32 else 0))

/-! ### Records -/

/-- Clamped counts: each 0..1,000,000. -/
def Counts.bytes (c : Counts) : List Byte := num 3 c.mono ++ num 3 c.colour ++ num 3 c.sheets

/-- An account's flags. -/
def Account.flagBytes (a : Account) : List Byte := flag a.warned ++ flag a.stopped ++ flag a.saturated

/-- A tenant's record, in the order of R1. -/
def Tenant.bytes (t : Tenant) : List Byte :=
  flag true ++ t.quotaMode.bytes ++ num 4 t.allowance ++ num 4 t.grace ++ num 4 t.account.used ++
  num 4 t.account.reserved ++ num 1 t.warnPercent ++ t.account.flagBytes ++ num 1 t.jobLimit ++
  num 1 t.releaseDepth ++ num 2 t.holdMinutes ++ num 1 t.partition ++ t.suppliesMode.bytes ++
  num 2 t.suppliesAllowance ++ num 2 t.suppliesUsed ++ num 1 t.leadCover ++ num 1 t.floorPercent ++
  num 1 t.commitWindow

/-- A user's record without its owner list, in the order of R4. -/
def User.bytes (u : User) : List Byte :=
  num 4 u.badge ++ num 1 u.tenant ++ u.state.bytes ++ u.quotaMode.bytes ++ num 4 u.allowance ++
  num 3 u.grace ++ num 4 u.account.used ++ num 4 u.account.reserved ++ u.account.flagBytes ++
  flag u.colourPermitted ++ num 1 u.jobCount ++ num 1 u.submitSeq

/-- A descriptor (10.7.6). -/
def Descriptor.bytes (d : Descriptor) : List Byte :=
  num 2 d.pages ++ num 1 d.copies ++ num 1 d.nUp ++
  num 1 ((if d.duplex then 1 else 0) + (if d.colour then 2 else 0) + (if d.fallback then 4 else 0)) ++
  num 1 d.sizeClass.code

/-- A job's record, in the order of R49. -/
def Job.bytes (j : Job) : List Byte :=
  num 3 j.handle ++ num 2 j.owner ++ num 1 j.tenant ++ j.descriptor.bytes ++ num 4 j.spoolRef ++
  num 4 j.submitted ++ num 4 j.holdDeadline ++ j.state.bytes ++ flag j.committed ++
  optional 1 (fun c => num 1 c.station) j.charging ++ optional 4 (fun c => num 4 c.reservation) j.charging ++
  optional 1 (fun c => num 1 c.monoRate) j.charging ++ optional 1 (fun c => num 1 c.colourRate) j.charging ++
  optional 1 (fun c => num 1 c.sheetRate) j.charging ++ optional 1 (fun c => num 1 c.surcharge) j.charging ++
  optional 1 (fun c => flag c.fallback) j.charging ++ optional 1 (fun c => flag c.duplexEffective) j.charging ++
  (if j.cancelRequested then flag true else Config.absentField 1) ++ optional 9 Counts.bytes j.progress

/-- What GET JOB gives of a queue entry (R62). -/
def Entry.bytes (e : Entry) : List Byte :=
  e.sub.bytes ++ num 4 e.released ++ optional 4 (num 4) e.commitDeadline ++
  optional 4 (num 4) e.startDeadline ++ optional 4 (num 4) e.abandonDeadline

/-- A station's record without its queue, in the order of R67. -/
def Station.bytes (x : Station) : List Byte :=
  x.state.bytes ++ num 2 x.model ++ flag x.colour ++ flag x.duplex ++ x.sizes.bytes ++ num 1 x.owner ++
  tenantSetBytes x.admitted ++ num 1 x.surcharge ++ num 1 x.floor ++ listField (num 1) x.neighbours ++
  num 1 x.weight ++ num 1 x.midWater ++ flag x.paused ++ num 4 x.lifeMono ++ num 4 x.lifeColour ++
  num 4 x.lifeSheets

/-- A consumable's record, in the order of R129. -/
def Consumable.bytes (r : Consumable) : List Byte :=
  levelBytes r.level ++ num 2 r.yield ++ num 4 r.sinceChange ++ num 4 r.interval ++ num 4 r.rate ++
  flag r.rateLearnt ++ num 2 r.cover ++ optional 2 (num 2) r.reorder

/-- A reorder, in the order of R136. -/
def Reorder.bytes (r : Reorder) : List Byte :=
  num 2 r.number ++ num 1 r.station ++ num 1 (tonerCode r.colour) ++ num 1 r.tenant ++ r.state.bytes ++
  num 4 r.created ++ r.cause.bytes ++ num 1 r.level ++ num 2 r.cover ++ optional 4 (num 4) r.due ++
  flag r.overdue

/-- A callout as listed, in the order of R156 with its colour set (R165). -/
def ListedCallout.bytes (x : ListedCallout) : List Byte :=
  num 2 x.number ++ num 1 x.record.station ++ num 1 (classCode x.record.cls) ++ num 1 x.record.tier ++
  x.record.state.bytes ++ num 4 x.record.opened ++ optional 4 (num 4) x.record.deadline ++
  num 1 x.record.recurrence ++ optional 1 ColourSet.bytes x.colours

/-- A callout link's code. -/
def CalloutLink.code : CalloutLink → Nat
  | .waiting _ => 0
  | .suppressed => 1
  | .pending _ => 2
  | .called _ => 3

/-- The due minute of a link, present in WAITING once the delay has started (R148). -/
def CalloutLink.due : CalloutLink → Option Nat
  | .waiting d => d
  | _ => none

/-- The callout number of a link, present in CALLED (R148). -/
def CalloutLink.callout : CalloutLink → Option Nat
  | .called n => some n
  | _ => none

/-- A fault entry as LIST CALLOUTS gives it (R165). -/
def FaultEntry.bytes (f : FaultEntry) : List Byte :=
  num 1 (classCode f.cls) ++ (if f.cls = .toner then f.colours.bytes else Config.absentField 1) ++
  num 4 f.since ++ num 1 f.link.code ++ optional 4 (num 4) f.link.due ++ optional 2 (num 2) f.link.callout

/-- A pending fault as LIST CALLOUTS gives it (R165). -/
def ListedPending.bytes (p : ListedPending) : List Byte :=
  num 1 p.station ++ num 1 (classCode p.cls) ++ num 4 p.fellDue

/-- A counter (R175, R176). -/
def Counter.bytes (c : Counter) : List Byte := c.source.bytes ++ num 3 c.preload ++ num 3 c.count

/-- The count at a place of a SHOW, which it carries for RELEASE alone (R122); the byte stands there in any case, and
is free where the count is not carried (10.7.7; assumption 3). -/
def Show.countByte (x : Show) (place n : Nat) : Byte :=
  if x.result = .release then BitVec.ofNat 8 n else Config.absentByte place

/-- The seven bytes of a SHOW (10.7.7). -/
def Show.bytes (x : Show) : List Byte :=
  [BitVec.ofNat 8 x.result.code, x.countByte 1 x.released, x.countByte 2 x.fallback, x.countByte 3 x.skipped,
    BitVec.ofNat 8 (skipCode x.firstSkip), BitVec.ofNat 8 ((x.suggestion.map (·.station)).getD 255),
    (x.suggestion.map (fun g => BitVec.ofNat 8 g.floor)).getD (Config.absentByte 6)]

/-- An examined candidate (R92). -/
def Examined.bytes (e : Examined) : List Byte := num 3 e.handle ++ e.verdict.bytes ++ optional 4 (num 4) e.estimate

/-- A queue entry as GET STATION lists it (R83). -/
def listedEntryBytes (e : Nat × SubState × Bool) : List Byte := num 3 e.1 ++ e.2.1.bytes ++ flag e.2.2

/-! ### Notices (10.7.5) -/

/-- A notice kind's code. -/
def NoticeBody.code : NoticeBody → Nat
  | .streamJob .. => 0x01
  | .jobDone .. => 0x02
  | .jobAbandoned .. => 0x03
  | .jobReturned .. => 0x04
  | .jobFallback .. => 0x05
  | .commitLapsed .. => 0x06
  | .jobDeleted .. => 0x07
  | .jobExpired .. => 0x08
  | .jobFailed .. => 0x09
  | .quotaWarn .. => 0x11
  | .quotaStop .. => 0x12
  | .periodRolled .. => 0x13
  | .stationState .. => 0x21
  | .stationBusy .. => 0x22
  | .stationFound .. => 0x23
  | .sweepDone .. => 0x24
  | .reorderProposed .. => 0x31
  | .reorderDeferred .. => 0x32
  | .reorderOverdue .. => 0x33
  | .reorderReceived .. => 0x34
  | .reorderCancelled .. => 0x35
  | .calloutOpen .. => 0x41
  | .calloutEscalated .. => 0x42
  | .calloutStalled .. => 0x43
  | .calloutResolved .. => 0x44
  | .calloutClosed .. => 0x45
  | .intervalExpired .. => 0x51

/-- The handle, owner and spool reference that open most JOB notices. -/
def jobHead (handle owner spoolRef : Nat) : List Byte := num 3 handle ++ num 2 owner ++ num 4 spoolRef

/-- The number, station, colour and tenant that open every SUPPLY notice. -/
def reorderHead (number station : Nat) (colour : Toner) (tenant : Nat) : List Byte :=
  num 2 number ++ num 1 station ++ num 1 (tonerCode colour) ++ num 1 tenant

/-- The number, station, floor and class that open most CALLOUT notices. -/
def calloutHead (number station floor : Nat) (cls : FaultClass) : List Byte :=
  num 2 number ++ num 1 station ++ num 1 floor ++ num 1 (classCode cls)

/-- A notice's body: its fields in its rule's order.  DEDUCED (assumption 30): JOB ABANDONED leaves out JOB DONE's
indication that the job was aborted together with the abort reason, of which alone R102 speaks. -/
def NoticeBody.bytes : NoticeBody → List Byte
  | .streamJob h tok ref st fb dx => num 3 h ++ num 2 tok ++ num 4 ref ++ num 1 st ++ flag fb ++ flag dx
  | .jobDone h o ref st charge n aborted fb =>
    jobHead h o ref ++ num 1 st ++ num 4 charge ++ n.bytes ++ flag aborted.isSome ++
      optional 1 AbortReason.bytes aborted ++ flag fb
  | .jobAbandoned h o ref st charge n fb fs =>
    jobHead h o ref ++ num 1 st ++ num 4 charge ++ n.bytes ++ flag fb ++ faultSetBytes fs
  | .jobReturned h o ref st into reason => jobHead h o ref ++ num 1 st ++ into.bytes ++ reason.bytes
  | .jobFallback h o st before after => num 3 h ++ num 2 o ++ num 1 st ++ num 4 before ++ num 4 after
  | .commitLapsed h o ref st => jobHead h o ref ++ num 1 st
  | .jobDeleted h o ref cause => jobHead h o ref ++ cause.bytes
  | .jobExpired h o ref => jobHead h o ref
  | .jobFailed h o ref st => jobHead h o ref ++ st.bytes
  | .quotaWarn k n used level => k.bytes ++ num 2 n ++ num 4 used ++ num 4 level
  | .quotaStop k n used level => k.bytes ++ num 2 n ++ num 4 used ++ num 4 level
  | .periodRolled k n => k.bytes ++ num 2 n
  | .stationState st before after fs => num 1 st ++ before.bytes ++ stateAfterBytes after ++ faultSetBytes fs
  | .stationBusy st depth capacity => num 1 st ++ num 1 depth ++ num 1 capacity
  | .stationFound st model c d sizes => num 1 st ++ num 2 model ++ flag c ++ flag d ++ sizes.bytes
  | .sweepDone r tried found aborted => num 1 r ++ num 1 tried ++ num 1 found ++ flag aborted
  | .reorderProposed n st col t cause level cover used allowance approved promoted =>
    reorderHead n st col t ++ cause.bytes ++ num 1 level ++ num 2 cover ++ num 2 used ++ num 2 allowance ++
      flag approved ++ flag promoted
  | .reorderDeferred n st col t cause level cover used allowance =>
    reorderHead n st col t ++ cause.bytes ++ num 1 level ++ num 2 cover ++ num 2 used ++ num 2 allowance
  | .reorderOverdue n st col t due => reorderHead n st col t ++ num 4 due
  | .reorderReceived n st col t state => reorderHead n st col t ++ state.bytes
  | .reorderCancelled n st col t state => reorderHead n st col t ++ state.bytes
  | .calloutOpen n st floor cls colours tier recurrence reopened since =>
    calloutHead n st floor cls ++ optional 1 ColourSet.bytes colours ++ num 1 tier ++ num 1 recurrence ++
      flag reopened ++ num 4 since
  | .calloutEscalated n st floor cls tier recurrence =>
    calloutHead n st floor cls ++ num 1 tier ++ num 1 recurrence
  | .calloutStalled n st floor cls tier opened recurrence reminder =>
    calloutHead n st floor cls ++ num 1 tier ++ num 4 opened ++ num 1 recurrence ++ flag reminder
  | .calloutResolved n st floor cls tier before => calloutHead n st floor cls ++ num 1 tier ++ before.bytes
  | .calloutClosed n st cls tier recurrence cause =>
    num 2 n ++ num 1 st ++ num 1 (classCode cls) ++ num 1 tier ++ num 1 recurrence ++ cause.bytes
  | .intervalExpired counter source preload => num 1 counter ++ source.bytes ++ num 3 preload

/-- A fetched notice: kind, class, clock minute, body length and body. -/
def Notice.bytes (n : Notice) : List Byte :=
  num 1 n.body.code ++ n.cls.bytes ++ num 4 n.minute ++ num 1 n.body.bytes.length ++ n.body.bytes

/-! ### Replies (10.7.2) -/

/-- A reply's body: its fields in its rule's order. -/
def ReplyBody.bytes : ReplyBody → List Byte
  | .empty => []
  | .tenant t remaining users stations =>
    t.bytes ++ optional 5 signed remaining ++ num 2 users ++ num 1 stations
  | .userNumber n => num 2 n
  | .jobsDeleted n => num 1 n
  | .user u remaining warnLevel => u.bytes ++ optional 5 signed remaining ++ num 4 warnLevel
  | .adjusted prior used reserved saturated remaining =>
    num 4 prior ++ num 4 used ++ num 4 reserved ++ flag saturated ++ optional 5 signed remaining
  | .jobHeld h tok deadline converted => num 3 h ++ num 2 tok ++ num 4 deadline ++ flag converted
  | .job j e => j.bytes ++ optional 17 Entry.bytes e
  | .jobs n items following =>
    num 1 n ++ listField (fun p => num 3 p.1 ++ p.2.bytes) items ++ num 1 following
  | .probe sh items =>
    sh.bytes ++ (if sh.result = .release then listField Examined.bytes items else Config.absentField 2)
  | .timing start abandon => num 1 start ++ num 1 abandon
  | .admitted state capacity => state.bytes ++ num 1 capacity
  | .parked n => num 1 n
  | .unparked state => state.bytes
  | .station x capacity depth freePool fs silent entries =>
    x.bytes ++ num 1 capacity ++ num 1 depth ++ num 2 freePool ++ faultSetBytes fs ++ flag silent ++
      listField listedEntryBytes entries
  | .sweep n => num 1 n
  | .linkReset burst links => num 1 burst ++ num 1 links
  | .consumable r owner lead floor reorder =>
    r.bytes ++ num 1 owner ++ num 1 lead ++ num 1 floor ++ optional 19 Reorder.bytes reorder
  | .reorders items n next => listField Reorder.bytes items ++ num 1 n ++ num 2 next
  | .approved r used allowance => r.bytes ++ num 2 used ++ num 2 allowance
  | .placed due => num 4 due
  | .cancelled used => num 2 used
  | .acknowledged n state tier => num 2 n ++ state.bytes ++ num 1 tier
  | .closed n opened => num 1 n ++ optional 2 (num 2) opened
  | .policy p =>
    num 1 p.jam ++ num 1 p.door ++ num 1 p.paper ++ num 1 p.toner ++ num 1 p.service ++ num 1 p.silent ++
      num 2 p.t1 ++ num 2 p.t2 ++ num 2 p.t3
  | .callouts records n next pending faults =>
    listField ListedCallout.bytes records ++ num 1 n ++ num 2 next ++ listField ListedPending.bytes pending ++
      optional 2 (listField FaultEntry.bytes) faults
  | .clock m => num 4 m
  | .clockSet before after => num 4 before ++ num 4 after
  | .intervalSet before after => before.bytes ++ after.bytes
  | .intervals q => q.q0.bytes ++ q.q1.bytes ++ q.q2.bytes ++ q.q3.bytes
  | .partInfo code rev caps => fewest code ++ fewest rev ++ caps.flatMap fewest
  | .fetched notice more lost =>
    num 1 ((if notice.isSome then 1 else 0) + (if more then 2 else 0) + (if lost then 4 else 0)) ++
      (match notice with
       | some n => n.bytes
       | none => [])
  | .masks before after => before.bytes ++ after.bytes
  | .restarted k => k.bytes

/-- The status, the reason and the body bytes of an answer (10.7.2, 10.7.4). -/
def Answer.bytes : Answer → List Byte × List Byte
  | .ok b => ([0#8, 0#8], b.bytes)
  | .accepted b => ([1#8, 0#8], b.bytes)
  | .refused r => (2#8 :: num 1 r.code, [])

/-- A frame from its bytes between sync and check. -/
def framed (bs : List Byte) : List Byte := Config.syncByte :: bs ++ num 2 (checkSum bs)

/-- A reply's frame on TXD (10.7.2). -/
def Reply.frame (r : Reply) : List Byte :=
  let a := r.answer.bytes
  framed (num 2 a.2.length ++ [r.kind, r.tag] ++ a.1 ++ a.2)

/-! ### Riser links (10.7.7) -/

/-- A command's code and body. -/
def Command.bytes : Command → Byte × List Byte
  | .expect tok pages copies nUp duplex colour size =>
    (1#8, num 2 tok ++ num 2 pages ++ num 1 copies ++ num 1 nUp ++
      num 1 ((if duplex then 1 else 0) + (if colour then 2 else 0)) ++ num 1 size.code)
  | .withdraw tok => (2#8, num 2 tok)
  | .display sh => (3#8, sh.bytes)
  | .queryLevels => (4#8, [])

/-- The control byte of a poll. -/
def AwaitedPoll.control (p : AwaitedPoll) : Nat :=
  (if p.ack.isSome then 1 else 0) + (if p.ack = some true then 2 else 0) + (if p.command.isSome then 4 else 0)

/-- The bytes of a poll before its check byte.  DEDUCED (assumption 27): a poll without a command has neither the
command code nor the command body length, as 10.7.7 says of the code and leaves open of the length. -/
def AwaitedPoll.head (p : AwaitedPoll) : List Byte :=
  num 1 (0x80 + p.drop) ++ num 1 p.control ++
    (match p.command with
     | some c => c.bytes.1 :: num 1 c.bytes.2.length ++ c.bytes.2
     | none => [])

/-- The byte that brings a frame's sum to 0 modulo 256 (R110). -/
def checkByte (bs : List Byte) : Byte := -(bs.foldl (· + ·) 0#8)

/-- A poll as sent on its riser's line (10.7.7); it is what the part sends when the poll is made. -/
def AwaitedPoll.frame (p : AwaitedPoll) : List Byte := p.head ++ [checkByte p.head]

end Sys2Proof.Machine
end

