-- ==== Sys2Proof/WellFormed.lean ====
section
/-! DEFINITION. Which commands are well formed: the ranges the manual gives the operands that the types
of `Instr` do not already hold.  A command that is not well formed names nothing the part has; `exec` still
answers for it (it finds no record, or a reply from another address). -/

namespace Sys2Proof

/-- A reply names a drop address 01h..18h (10.7.7). -/
def ReplyHeader.wellFormed (h : ReplyHeader) : Bool := 1 ≤ h.drop && h.drop ≤ 24

/-- The operand ranges of a command: slots (R45), stations (R66), callout numbers (R156) and reorder
numbers (R136), and the drop address of every reply. -/
def Instr.wellFormed : Instr → Bool
  | .idle h | .hello h _ _ _ | .badge h _ | .jobStart h _ | .jobProgress h _ _ _ _
  | .jobEnd h _ _ _ _ | .jobAbort h _ _ _ _ _ | .levels h _ _ _ _ | .faultSet h _ _
  | .faultClear h _ _ | .pause h | .resume h | .eventDiscarded h => h.wellFormed
  | .holdDeadline n | .commitDeadline n | .startDeadline n | .abandonDeadline n => n < Config.slotCount
  | .faultDueMinute st _ => st < Config.stationCount
  | .tierDeadline n => 1 ≤ n && n ≤ 65535
  | .reorderDueMinute n => 1 ≤ n && n ≤ 65535
  | .powerOn _ | .resetAsserted | .resetReleased _ | .requestFrame _ | .requestQueueFull
  | .unknownRequest | .badLength | .putTenant | .getTenant | .removeTenant | .enrolUser | .amendUser
  | .suspendUser | .reinstateUser | .removeUser | .getUser | .findBadge | .adjustAccount | .setRates
  | .holdJob | .commitSpool | .cancelJob | .spoolFault | .getJob | .listJobs | .setPartitions
  | .probeRelease | .setReleaseTiming | .admitStation | .parkStation | .unparkStation | .setStation
  | .retireStation | .getStation | .sweepRiser | .linkReset | .getConsumable | .listReorders
  | .approveReorder | .placeReorder | .cancelReorder | .ackCallout | .closeCallout
  | .setCalloutPolicy | .listCallouts | .readClock | .setClock | .setInterval | .readInterval
  | .partInfo | .fetchNotice | .setNoticeMask | .restartJobs | .restartAll | .poll _ | .emptyCycle _
  | .sweepTrial _ _ | .miss _ | .clockAdvance | .intervalExpired _ => true

end Sys2Proof
end

