-- ==== Sys2Proof/Tests/Slice0.lean ====
section
/-! SUPPORT. Tests: the checks of WellFormed, worked examples of the manual, and for every statement a state and
operands that meet its hypotheses (`test_witness_<statement>`), clause by clause at boundary values. -/

namespace Sys2Proof.Tests

open Sys2Proof Sys2Proof.Machine

/-! ### Builders -/

/-- A request of tag 17h with the bytes of its body. -/
def ask (kind role tenant : Nat) (body : List Nat) : Request :=
  { kind := BitVec.ofNat 8 kind, tag := 0x17#8, role := role, tenant := tenant, body := body.map (BitVec.ofNat 8) }

/-- A state with one request waiting. -/
def asking (s : State) (q : Request) : State := { s with requests := [q] }

/-- A descriptor. -/
def paper (pages copies nUp : Nat) (duplex colour : Bool) (size : SizeClass) (fallback : Bool := false) : Descriptor :=
  { pages := pages, copies := copies, nUp := nUp, duplex := duplex, colour := colour, sizeClass := size
    fallback := fallback }

/-- A job that has not been released. -/
def waitingJob (handle owner tenant : Nat) (d : Descriptor) (committed : Bool) : Job :=
  { handle := handle, owner := owner, tenant := tenant, descriptor := d, spoolRef := handle, submitted := 7000
    holdDeadline := 8440, state := if committed then .held else .receiving, committed := committed }

/-- The charging of a job released at station 30 by its owner tenant. -/
def charged (reservation : Nat) : Charging :=
  { station := 30, reservation := reservation, monoRate := 1, colourRate := 1, sheetRate := 1, surcharge := 0
    fallback := false, duplexEffective := false }

/-- A job that has been released at station 30. -/
def releasedJob (handle : Nat) (state : JobState) (committed : Bool) (reservation : Nat) : Job :=
  { waitingJob handle 2210 7 (paper 10 1 1 false false .s) committed with
    state := state, charging := some (charged reservation) }

/-- Station 30 of the example of section 5.8. -/
def station30 : Station :=
  { state := .inService, model := 77, colour := true, duplex := true, sizes := ⟨true, true, false⟩, owner := 7
    admitted := [4], surcharge := 50
    queue := [{ handle := 23052, sub := .sent, released := 7990 },
      { handle := 23298, released := 7998, commitDeadline := some 8028 }] }

/-- The state of the example of section 5.8 just before the badge of minute 8,000. -/
def building : State :=
  { State.reset with
    clock := 8000
    tenants := [(0, {}),
      (4, { quotaMode := .limited, allowance := 40000, grace := 2000, account := { used := 15000, reserved := 1200 } }),
      (7, { suppliesMode := .limited, suppliesAllowance := 6, suppliesUsed := 5, commitWindow := 30 })]
    users := [(1317, { badge := 555, tenant := 4, quotaMode := .limited, allowance := 2000
                       account := { used := 600 }, jobCount := 4, owned := [76804, 77056, 133641, 133889] }),
      (2210, { badge := 556, tenant := 7, account := { reserved := 40 }, jobCount := 2, owned := [23052, 23298] })]
    generations := [(90, 12), (91, 2), (300, 4), (522, 9), (523, 1)]
    jobs := [(90, releasedJob 23052 .printing true 20), (91, releasedJob 23298 .queued false 20),
      (300, waitingJob 76804 1317 4 (paper 4 1 1 false false .e) true),
      (301, waitingJob 77056 1317 4 (paper 23 3 2 true true .s) true),
      (522, waitingJob 133641 1317 4 (paper 10 1 1 false false .s) false),
      (523, waitingJob 133889 1317 4 (paper 6 1 1 false false .s) true)]
    stations := [(30, station30)]
    links := [(30, { accepted := some false })]
    consumables := [(120, {}), (121, {}), (122, {}), (123, {})] }

/-- Station 30 with another record. -/
def with30 (s : State) (x : Station) : State := { s with stations := [(30, x)] }

/-- A poll of drop address 7, the first of its visit, whose command is `c`. -/
def pollOf7 (c : Option Command) : AwaitedPoll :=
  { drop := 7, ack := some false, command := c, trial := false, made := 1 }

/-- The state in which the reply to a poll of drop address 7 of riser 1 is awaited. -/
def polled (s : State) : State :=
  { s with risers := s.risers.write 1 { position := 7, awaited := some (pollOf7 none) } }

/-- A reply from station 30 with sequence bit 1. -/
def reply30 : ReplyHeader := { riser := 1, drop := 7, seq := true, taken := false }

/-- The state a command leaves; the state itself where the command leaves none. -/
def after (i : Instr) (s : State) : State :=
  match exec i s with
  | .next t => t
  | _ => s

/-! ### WellFormed: an ill-formed term for each check -/

theorem test_reply_from_address_0_is_ill_formed : (Instr.idle { reply30 with drop := 0 }).wellFormed = false := by decide
theorem test_reply_from_address_25_is_ill_formed :
    (Instr.badge { reply30 with drop := 25 } 5#32).wellFormed = false := by decide
theorem test_slot_1024_is_ill_formed :
    (Instr.holdDeadline 1024).wellFormed = false ∧ (Instr.commitDeadline 1024).wellFormed = false ∧
    (Instr.startDeadline 1024).wellFormed = false ∧ (Instr.abandonDeadline 1024).wellFormed = false := by decide
theorem test_station_96_is_ill_formed : (Instr.faultDueMinute 96 .jam).wellFormed = false := by decide
theorem test_callout_0_is_ill_formed :
    (Instr.tierDeadline 0).wellFormed = false ∧ (Instr.tierDeadline 65536).wellFormed = false := by decide
theorem test_reorder_0_is_ill_formed :
    (Instr.reorderDueMinute 0).wellFormed = false ∧ (Instr.reorderDueMinute 65536).wellFormed = false := by decide
theorem test_good_commands_are_well_formed :
    (Instr.idle reply30).wellFormed = true ∧ (Instr.holdDeadline 1023).wellFormed = true ∧
    (Instr.faultDueMinute 95 .silent).wellFormed = true ∧ (Instr.tierDeadline 65535).wellFormed = true ∧
    (Instr.reorderDueMinute 1).wellFormed = true := by decide

/-! ### Worked examples of the manual -/

/-- Section 2.2, the first worked job: sides 12, impressions 36, sheets 18, estimate 297. -/
theorem test_charge_case :
    (paper 23 3 2 true true .s).sides = 12 ∧ (paper 23 3 2 true true .s).impressions = 36 ∧
    (paper 23 3 2 true true .s).sheets true = 18 ∧ (paper 23 3 2 true true .s).estimate true 5 1 50 = 297 := by decide

/-- Section 5.8, J3: 10 sides, base 20, estimate 30. -/
theorem test_charge_of_j3 : (paper 10 1 1 false false .s).estimate false 1 1 50 = 30 := by decide

/-- R27: the greatest settlement charge. -/
theorem test_greatest_settlement :
    ({ charged 0 with monoRate := 255, colourRate := 255, sheetRate := 255, surcharge := 200 } : Charging).settlement
      (Counts.clamped ⟨2000000, 1000000, 1000001⟩) = 2295000000 := by decide

/-- Section 3.2: the names of a job in slot 684 at generation 7, and of that at generation 71. -/
theorem test_names_of_a_job : tokenOf 175111 = 43783 ∧ tokenOf 175175 = 43783 := by decide

/-- Section 3.4: the offsets looked at for user 1,000 with submit sequences 17, 19 and 101 in partitions of 256. -/
theorem test_placement_offsets :
    placementOffsets 1000 17 256 = [41, 169, 170, 171, 172, 173, 174, 175] ∧
    placementOffsets 1000 19 256 = [43, 171, 172, 173, 174, 175, 176, 177] ∧
    placementOffsets 1000 101 256 = [125, 253, 254, 255, 0, 1, 2, 3] := by decide

/-- Section 10.8: the frame of GET USER 813 passes its check and enters the queue. -/
theorem test_worked_frame :
    ((State.reset.receive [0xC5, 0x00, 0x02, 0x18, 0x17, 0x85, 0x03, 0x2D, 0x00, 0xE6]).requests) =
      [ask 0x18 2 5 [3, 0x2D]] := by decide

/-- Section 1.3: the order of the checks, with user 813 of tenant 5 and user 812 of tenant 9. -/
def example13 : State :=
  { State.reset with
    tenants := [(0, {}), (5, {}), (9, {})]
    users := [(812, { badge := 1, tenant := 9 }), (813, { badge := 2, tenant := 5, jobCount := 1, owned := [10243] })]
    generations := [(40, 3)]
    jobs := [(40, waitingJob 10243 813 5 (paper 1 1 1 false false .s) true)] }

/-- The refusal a request's rule ends in on the example of section 1.3. -/
def refusal (r : Rule) (q : Request) : Option Reason :=
  match r q example13 with
  | .error e => some e
  | .ok _ => none

theorem test_binding_comes_before_range :
    refusal getUserRule (ask 0x18 2 5 [3, 44]) = some .notPermitted ∧
    refusal getUserRule (ask 0x18 2 5 [19, 136]) = some .notPermitted ∧
    refusal getUserRule (ask 0x18 0 31 [19, 136]) = some .outOfRange := by decide
theorem test_handle_of_another_generation :
    refusal cancelJobRule (ask 0x32 3 5 [0, 40, 2]) = some .noSuch ∧
    refusal cancelJobRule (ask 0x32 3 9 [0, 40, 3]) = some .notPermitted := by decide
theorem test_range_comes_after_authority :
    refusal amendUserRule (ask 0x14 2 5 ([3, 45, 8] ++ [0, 0, 0, 0] ++ [0] ++ [0] ++ [8, 240, 209, 128] ++ [0, 0, 0, 0])) =
      some .outOfRange ∧
    refusal putTenantRule (ask 0x10 2 5 ([5, 0, 192] ++ List.replicate 12 0 ++ [78, 32] ++ [1] ++ List.replicate 6 0)) =
      some .notPermitted ∧
    refusal putTenantRule (ask 0x10 2 5 ([5, 0, 64] ++ List.replicate 12 0 ++ [78, 32] ++ [1] ++ List.replicate 6 0)) =
      some .outOfRange := by decide

/-- Section 2.5: a refund that meets the clamp, then a charge across the warn level. -/
theorem test_refund_meets_the_clamp :
    (({ used := 340 } : Account).adjust (-500)).used = 0 ∧
    ((⟨.limited, 5000, 0, 4000⟩ : Terms).checked 0 (({} : Account).adjust 4200)).warned = true ∧
    ((⟨.limited, 5000, 0, 4000⟩ : Terms).checked 0 (({} : Account).adjust 4200)).stopped = false := by decide

/-- Section 2.6: the rollover of user 1,204, and the settlement after it. -/
theorem test_rollover_case :
    (({ used := 1180, reserved := 297, warned := true, stopped := true } : Account).rollOver .limited 1000) =
      { used := 180, reserved := 297 } ∧
    (({ used := 180, reserved := 297 } : Account).settled 297 297) = { used := 477 } ∧
    (⟨.limited, 1000, 100, 800⟩ : Terms).remaining { used := 1180, reserved := 297 } = -377 := by decide

/-- Section 5.8, minute 8,000: J1 is skipped MEDIA, J2 and J3 are released, J4 is skipped QUEUE FULL. -/
theorem test_badge_of_minute_8000 :
    (building.present 30 station30 (building.badgeHolder 555)).2.2.map (fun e => (e.verdict, e.estimate)) =
      [(.skip .media, none), (.release, some 297), (.release, some 30), (.skip .queueFull, some 18)] ∧
    (((after (.badge reply30 555#32) (polled building)).stations.fetch 30).map (fun x => x.queue.map (·.handle))) =
      some [23052, 23298, 77056, 133641] := by decide

/-- Section 6.5: a third miss makes a station silent, and the sixteenth cycle after it visits it again. -/
theorem test_third_miss : ({ accepted := some true, misses := 2 } : Link).missed =
    { accepted := some true, misses := 3, silent := true, phase := 15 } := by decide

/-- Section 7.6: the sample of the magenta record, its forecast, and the level report of minute 21,000. -/
theorem test_forecast_case :
    (({ level := some 30, yield := 180, interval := 640, rate := 720, rateLearnt := true } : Consumable).sampled).rate = 700 ∧
    ({ level := some 30, yield := 180, rate := 700, rateLearnt := true } : Consumable).forecast = 7 ∧
    (({ level := some 30, yield := 180, sinceChange := 760, rate := 700 } : Consumable).dropTo 30 26).yield = 182 ∧
    ({ level := some 26, yield := 182, rate := 700 } : Consumable).forecast = 6 := by decide

/-- Section 8.6: callout 2,107 escalates at 1,030 to tier 2 with deadline 1,090. -/
theorem test_escalation :
    ((after (.tierDeadline 2107) { State.reset with
      clock := 1030
      callouts := [(2107, ⟨57, .service, 1, .opened, 1000, some 1030, 0⟩)] }).callouts.fetch 2107) =
        some ⟨57, .service, 2, .opened, 1000, some 1090, 0⟩ := by decide

/-- Section 8.6, minute 1,430: callout 2,107 recurs at tier 3. -/
theorem test_recurrence :
    (({ State.reset with
      clock := 1430
      callouts := [(2107, ⟨57, .service, 3, .resolved, 1000, none, 0⟩)] } : State).fallDue 57 .service).callouts =
        [(2107, ⟨57, .service, 3, .opened, 1000, some 1550, 1⟩)] := by decide

/-- Section 9.4: 2,450 units bring three expiries of a counter of preload 1,000 at 300, and leave 850. -/
theorem test_three_expiries :
    (let s := State.takeUnits 2 2451 2450 { State.reset with
      counters := State.reset.counters.write 2 ⟨.impressions, 1000, 300⟩ }
     (s.counters.q2.count, s.notices.length)) = (850, 3) := by decide

/-- R24: nobody pays a surcharge at a shared station, whose owner is tenant 0; a guest of station 30 pays 50 percent,
its owner and tenant 0 nothing. -/
theorem test_surcharge_needs_an_owner :
    ({ station30 with owner := 0 } : Station).surchargeFor 4 = 0 ∧ station30.surchargeFor 4 = 50 ∧
    station30.surchargeFor 7 = 0 ∧ station30.surchargeFor 0 = 0 := by decide

/-- R182: what TXD begins next is the owed answer, ahead of the reply that waits; under RESET nothing begins. -/
theorem test_owed_answer_overtakes_a_waiting_reply :
    let waits : Reply := ⟨0x90#8, 1#8, .ok (.clock 5)⟩
    let s : State := { State.reset with txd := some waits, overflow := [(0xA0#8, 3#8)], replies := [waits] }
    step s = .next { s with txd := some ⟨0xA0#8, 3#8, .refused .requestQueueFull⟩, overflow := [] } ∧
    step { s with resetHeld := true } = .next { s with resetHeld := true } := ⟨rfl, rfl⟩

/-- 10.7.7: a SHOW is 7 bytes, whatever it carries. -/
theorem test_show_is_seven_bytes (x : Show) : x.bytes.length = 7 := rfl

/-- R179 and section 10.1: RnDIR of riser 1 is high while a POLL of riser 1 sends, and of no other command's, and low
under RESET. -/
theorem test_direction_of_a_riser :
    building.rnDir (.poll 1) 1 = true ∧ building.rnDir (.poll 0) 1 = false ∧ building.rnDir .clockAdvance 1 = false ∧
    (polled building).rnDir (.poll 1) 1 = false ∧
    ({ building with resetHeld := true } : State).rnDir (.poll 1) 1 = false := by decide

/-! ### Witnesses: the queue of commands, power, RESET and the host port -/

/-- The turn of the one request waiting in a running state. -/
theorem turn_asking {s : State} {k : Kind} {q : Request} (hr : s.resetHeld = false) (hk : q.isKind k = true) :
    (asking s q).Turn k q [] := ⟨hr, rfl, hk⟩

theorem test_witness_StepRunsFrontCommand :
    ({ State.reset with pending := [.clockAdvance, .poll 3] } : State).pending = .clockAdvance :: [.poll 3] ∧
    ({ State.reset with resetHeld := true } : State).pending = [] ∧
    (State.reset.pending = [] ∧ State.reset.resetHeld = false ∧ State.reset.overflow = [] ∧ State.reset.replies = []) ∧
    ({ State.reset with overflow := [(0xA0#8, 3#8)] } : State).overflow = (0xA0#8, 3#8) :: [] ∧
    ({ State.reset with replies := [⟨0x90#8, 1#8, .ok (.clock 5)⟩] } : State).replies =
      ⟨0x90#8, 1#8, .ok (.clock 5)⟩ :: [] := by decide

theorem test_witness_ResetHeldStopsEveryBlock :
    ({ State.reset with resetHeld := true } : State).resetHeld = true ∧
    (∀ p, Instr.clockAdvance ≠ .powerOn p) ∧ (∀ p, Instr.clockAdvance ≠ .resetReleased p) ∧
    Instr.clockAdvance ≠ .resetAsserted ∧ building.resetHeld = false ∧ ∃ t, exec (.poll 1) building = .next t :=
  ⟨rfl, fun _ h => (nomatch h), fun _ h => (nomatch h), fun h => (nomatch h), rfl, _, rfl⟩

/-- A state with `n` PART INFO requests queued. -/
def queued (n : Nat) : State := { State.reset with requests := List.replicate n (ask 0xA0 0 0 []) }

theorem test_witness_FramesAreCheckedAndQueued :
    (queued 7).resetHeld = false ∧ (queued 7).rx = [] ∧ (∀ b ∈ [0xC4#8, 0xC6#8], b ≠ 0xC5#8) ∧
    (List.replicate 1020 0#8).length ≤ 1020 ∧ (queued 7).requests.length < 8 ∧
    (0#8).toNat * 256 + (1#8).toNat ≠ (([0#8, 0#8, 0xA0#8, 0#8, 0#8] : List Byte).map BitVec.toNat).sum % 65536 := by
  refine ⟨rfl, rfl, by decide, ?_, by decide⟩
  rw [List.length_replicate]

theorem test_witness_FullQueueTurnsFramesAway :
    ((queued 8).resetHeld = false ∧ (queued 8).rx = [] ∧ (List.replicate 1020 0#8).length ≤ 1020 ∧
      8 ≤ (queued 8).requests.length) ∧
    (({ queued 8 with overflow := [(0xA0#8, 3#8)] } : State).overflow = (0xA0#8, 3#8) :: []) ∧
    ((queued 8).txd = none ∧ (queued 8).overflow = [] ∧ (queued 8).replies = []) ∧
    ({ queued 8 with txd := some ⟨0x90#8, 1#8, .ok (.clock 5)⟩ } : State).txd ≠ none := by
  refine ⟨⟨rfl, rfl, ?_, by decide⟩, rfl, by decide⟩
  rw [List.length_replicate]

theorem test_witness_UnusableFramesAreRefusedInTurn :
    ((queued 7).resetHeld = false ∧ (queued 7).rx = [] ∧ (queued 7).requests.length < 8 ∧
      1020 < (3#8).toNat * 256 + (253#8).toNat) ∧
    ((asking State.reset { ask 0x18 0 0 [] with oversize := true }).requests =
        { ask 0x18 0 0 [] with oversize := true } :: [] ∧
      ({ ask 0x18 0 0 [] with oversize := true } : Request).oversize = true) ∧
    (kindOfCode (ask 0x18 0 0 [1]).kind = some .getUser ∧ (ask 0x18 0 0 [1]).body.length ≠ Kind.getUser.bodyLength) ∧
    ((ask 0xFF 0 0 []).oversize = false ∧ kindOfCode (ask 0xFF 0 0 []).kind = none) := by decide

theorem test_witness_RefusalsLeaveEveryRecord :
    (asking State.reset (ask 0x18 3 5 [3, 45])).resetHeld = false ∧
    (asking State.reset (ask 0x18 3 5 [3, 45])).requests = ask 0x18 3 5 [3, 45] :: [] ∧
    carriesOut .getUser (ask 0x18 3 5 [3, 45]) = true := by decide

theorem test_witness_RoleWithoutPermissionIsRefused :
    (carriesOut .getUser (ask 0x18 3 0 [3, 45]) = true ∧ Instr.getUser ≠ .badLength ∧
      kindOfCode (ask 0x18 3 0 [3, 45]).kind = some .getUser ∧ Kind.getUser.permission 3 = .no) ∧
    (carriesOut .getUser (ask 0x18 2 5 [3, 45]) = true ∧ Kind.getUser.permission 2 ≠ .no ∧ 2 ≤ (ask 0x18 2 5 [3, 45]).role ∧
      State.reset.tenants.has (ask 0x18 2 5 [3, 45]).tenant = false) := by decide

theorem test_witness_PartInfoGivesCapacities :
    (asking State.reset (ask 0xA0 1 0 [])).Turn .partInfo (ask 0xA0 1 0 []) [] ∧ (ask 0xA0 1 0 []).role = 1 ∧
    (asking State.reset (ask 0xA0 2 0 [])).Turn .partInfo (ask 0xA0 2 0 []) [] ∧ 2 ≤ (ask 0xA0 2 0 []).role :=
  ⟨turn_asking rfl (by decide), rfl, turn_asking rfl (by decide), by decide⟩

theorem test_witness_ReadClockGivesMinute :
    (asking building (ask 0x90 3 7 [])).Turn .readClock (ask 0x90 3 7 []) [] ∧ (ask 0x90 3 7 []).role < 4 ∧
    (asking building (ask 0x90 3 7 [])).tenants.has (ask 0x90 3 7 []).tenant = true ∧
    (asking building (ask 0x90 3 8 [])).Turn .readClock (ask 0x90 3 8 []) [] ∧
    (asking building (ask 0x90 3 8 [])).tenants.has (ask 0x90 3 8 []).tenant = false :=
  ⟨turn_asking rfl (by decide), by decide, by decide, turn_asking rfl (by decide), by decide⟩

/-- A state whose notice queue is full. -/
def full : State :=
  { building with notices := List.replicate 64 ⟨.clock, 0, .intervalExpired 3 .minutes 60⟩ }

theorem test_witness_FetchNoticeRemovesOldest :
    (asking full (ask 0xA1 0 0 [])).Turn .fetchNotice (ask 0xA1 0 0 []) [] ∧
    (asking full (ask 0xA1 0 0 [])).notices = ⟨.clock, 0, .intervalExpired 3 .minutes 60⟩ ::
      List.replicate 63 ⟨.clock, 0, .intervalExpired 3 .minutes 60⟩ ∧
    (asking building (ask 0xA1 3 7 [])).Turn .fetchNotice (ask 0xA1 3 7 []) [] ∧
    (asking building (ask 0xA1 3 7 [])).tenants.has 7 = true ∧ (asking building (ask 0xA1 3 7 [])).notices = [] ∧
    full.mask.enables (NoticeBody.cls (.periodRolled .user 0)) = true ∧ 64 ≤ full.notices.length :=
  ⟨turn_asking rfl (by decide), rfl, turn_asking rfl (by decide), by decide, rfl, by decide⟩

theorem test_witness_NoticeMaskIsWritten :
    (asking building (ask 0xA2 0 0 [63, 0])).Turn .setNoticeMask (ask 0xA2 0 0 [63, 0]) [] ∧
    (ask 0xA2 0 0 [63, 0]).body = [63#8, 0#8] ∧ (63#8).toNat < 64 ∧ (0#8).toNat < 64 ∧ 64 ≤ (64#8).toNat ∧
    (asking building (ask 0xA2 1 0 [63, 0])).Turn .setNoticeMask (ask 0xA2 1 0 [63, 0]) [] ∧
    ({ building with mask := { quota := false } } : State).mask.enables (NoticeBody.cls (.periodRolled .user 0)) = false :=
  ⟨turn_asking rfl (by decide), rfl, by decide, by decide, by decide, turn_asking rfl (by decide), by decide⟩

theorem test_witness_RestartsClearWhatTheyName :
    ((asking building (ask 0xA3 0 0 [0])).Turn .restart (ask 0xA3 0 0 [0]) [] ∧ (ask 0xA3 0 0 [0]).role = 0 ∧
      (ask 0xA3 0 0 [0]).body = [0#8] ∧ (asking building (ask 0xA3 0 0 [0])).jobs.Sorted ∧
      (asking building (ask 0xA3 0 0 [0])).generations.Sorted) ∧
    ((asking building (ask 0xA3 0 0 [1])).Turn .restart (ask 0xA3 0 0 [1]) [] ∧ (ask 0xA3 0 0 [1]).body = [1#8]) :=
  ⟨⟨turn_asking rfl (by decide), rfl, rfl, by decide⟩, turn_asking rfl (by decide), rfl⟩

/-! ### Witnesses: tenants, users and accounts -/

/-- A PUT TENANT of tenant `n` that carries every field at the top of its range. -/
def putTop (role tenant n m1 m0 : Nat) : Request :=
  ask 0x10 role tenant ([n, m1, m0, 1, 119, 53, 148, 0, 5, 245, 225, 0, 100, 32, 16, 39, 96, 0, 1, 3, 232, 60, 50, 30])

theorem test_witness_PutTenantWritesCarriedFields :
    ((asking building (putTop 0 0 31 31 255)).Turn .putTenant (putTop 0 0 31 31 255) [] ∧
      (putTop 0 0 31 31 255).field 0 1 = 31 ∧ (putTop 0 0 31 31 255).field 1 2 = 8191 ∧
      authorise .putTenant (putTop 0 0 31 31 255) [building.bindTenant 31] building = .ok () ∧
      (tenantChangeOf (putTop 0 0 31 31 255)).valid building.partitions = true ∧
      building.tenantMayBecome 31 {} ((tenantChangeOf (putTop 0 0 31 31 255)).apply {}) = true) ∧
    ((asking building (putTop 2 7 7 28 120)).Turn .putTenant (putTop 2 7 7 28 120) [] ∧
      authorise .putTenant (putTop 2 7 7 28 120) [building.bindTenant 7] building = .ok () ∧
      building.tenants.has 7 = true ∧ (∀ i ∈ [0, 1, 2, 7, 8, 9], Nat.testBit 7288 i = false) ∧
      (tenantChangeOf (putTop 2 7 7 28 120)).valid building.partitions = true ∧
      building.tenantMayBecome 7 (building.tenantOf 7)
        ((tenantChangeOf (putTop 2 7 7 28 120)).apply (building.tenantOf 7)) = true) :=
  ⟨⟨turn_asking rfl (by decide), by decide, by decide, rfl, by decide⟩,
    turn_asking rfl (by decide), rfl, by decide⟩

theorem test_witness_TableReadsAnswerAndChangeNothing :
    ((asking building (ask 0x11 2 7 [7])).Turn .getTenant (ask 0x11 2 7 [7]) [] ∧
      authorise .getTenant (ask 0x11 2 7 [7]) [building.bindTenant 7] building = .ok () ∧
      (building.tenants.fetch 7).isSome = true) ∧
    ((asking building (ask 0x18 2 4 [5, 37])).Turn .getUser (ask 0x18 2 4 [5, 37]) [] ∧
      (ask 0x18 2 4 [5, 37]).field 0 2 = 1317 ∧
      authorise .getUser (ask 0x18 2 4 [5, 37]) [building.bindUser 1317] building = .ok () ∧
      (building.users.fetch 1317).isSome = true) ∧
    ((asking building (ask 0x19 0 0 [0, 0, 2, 43])).Turn .findBadge (ask 0x19 0 0 [0, 0, 2, 43]) [] ∧
      authorise .findBadge (ask 0x19 0 0 [0, 0, 2, 43]) [building.bindBadge 555] building = .ok () ∧
      (ask 0x19 0 0 [0, 0, 2, 43]).field 0 4 = 555 ∧
      (building.users.find? (fun p => p.2.badge = 555)).map (·.1) = some 1317) :=
  ⟨⟨turn_asking rfl (by decide), rfl, by decide⟩, ⟨turn_asking rfl (by decide), by decide, rfl, by decide⟩,
    turn_asking rfl (by decide), rfl, by decide⟩

/-- Tenant 31, which nothing names but an admitted set. -/
def withTenant31 : State :=
  { building with tenants := building.tenants ++ [(31, {})], stations := [(30, { station30 with admitted := [4, 31] })] }

theorem test_witness_RemoveTenantLeavesNoTrace :
    (asking withTenant31 (ask 0x12 0 0 [31])).Turn .removeTenant (ask 0x12 0 0 [31]) [] ∧ (ask 0x12 0 0 [31]).role = 0 ∧
    (ask 0x12 0 0 [31]).field 0 1 = 31 ∧ withTenant31.tenants.Sorted ∧ withTenant31.tenants.has 31 = true ∧
    (∀ p ∈ withTenant31.users, p.2.tenant ≠ 31) ∧ (∀ p ∈ withTenant31.stations, p.2.owner ≠ 31) ∧
    (∀ r ∈ withTenant31.reorders, r.tenant ≠ 31) :=
  ⟨turn_asking rfl (by decide), rfl, by decide⟩

/-- Users 0 and 2 alone, so that 1 is the lowest empty record. -/
def twoUsers : State := { building with users := [(0, { badge := 8, tenant := 4 }), (2, { badge := 9, tenant := 7 })] }

/-- An ENROL USER of tenant 4 with every field at the top of its range. -/
def enrolTop : Request := ask 0x13 0 0 [255, 255, 255, 255, 4, 15, 1, 5, 245, 225, 0, 15, 66, 64, 1]

theorem test_witness_EnrolUserFillsLowestEmptyRecord :
    (asking twoUsers enrolTop).Turn .enrolUser enrolTop [] ∧ enrolTop.field 0 4 = 4294967295 ∧
    enrolTop.field 4 1 = 4 ∧ enrolTop.field 5 1 = 15 ∧ authorise .enrolUser enrolTop [.tenant 4] twoUsers = .ok () ∧
    twoUsers.users.Sorted ∧ twoUsers.tenants.has 4 = true ∧ enrolTop.field 6 1 ≤ 1 ∧
    enrolTop.field 7 4 ≤ 100000000 ∧ enrolTop.field 11 3 ≤ 1000000 ∧ enrolTop.field 14 1 ≤ 1 ∧
    (∀ p ∈ twoUsers.users, p.2.badge ≠ 4294967295) ∧ twoUsers.users.has 1 = false ∧
    (∀ k, k < 1 → twoUsers.users.has k = true) :=
  ⟨turn_asking rfl (by decide), by decide, by decide, by decide, rfl, by decide⟩

/-- An AMEND USER of user 0 that carries every field. -/
def amendTop : Request := ask 0x14 0 0 [0, 0, 63, 0, 0, 0, 8, 7, 1, 5, 245, 225, 0, 15, 66, 64, 1]

theorem test_witness_AmendUserWritesCarriedFields :
    (asking twoUsers amendTop).Turn .amendUser amendTop [] ∧ amendTop.field 0 2 = 0 ∧ amendTop.field 2 1 = 63 ∧
    authorise .amendUser amendTop [twoUsers.bindUser 0, .tenant (amendTop.field 7 1)] twoUsers = .ok () ∧
    twoUsers.users.fetch 0 = some { badge := 8, tenant := 4 } ∧ amendTop.field 3 4 ≠ 0 ∧
    (∀ p ∈ twoUsers.users, p.2.badge = amendTop.field 3 4 → p.1 = 0) ∧ amendTop.field 7 1 < 32 ∧
    twoUsers.tenants.has (amendTop.field 7 1) = true ∧ ({ badge := 8, tenant := 4 } : User).jobCount = 0 ∧
    amendTop.field 8 1 ≤ 1 ∧ amendTop.field 9 4 ≤ 100000000 ∧ amendTop.field 13 3 ≤ 1000000 ∧
    amendTop.field 16 1 ≤ 1 :=
  ⟨turn_asking rfl (by decide), by decide, by decide, rfl, by decide, by decide, by decide, by decide, by decide, rfl,
    by decide⟩

theorem test_witness_SuspendAndReinstateWriteState :
    ((asking building (ask 0x15 2 4 [5, 37])).Turn .suspendUser (ask 0x15 2 4 [5, 37]) [] ∧
      authorise .suspendUser (ask 0x15 2 4 [5, 37]) [building.bindUser 1317] building = .ok () ∧
      building.users.has ((ask 0x15 2 4 [5, 37]).field 0 2) = true) ∧
    ((asking building (ask 0x16 2 4 [5, 37])).Turn .reinstateUser (ask 0x16 2 4 [5, 37]) [] ∧
      authorise .reinstateUser (ask 0x16 2 4 [5, 37]) [building.bindUser 1317] building = .ok ()) :=
  ⟨⟨turn_asking rfl (by decide), rfl, by decide⟩, turn_asking rfl (by decide), rfl⟩

theorem test_witness_RemoveUserDeletesUnreleasedJobs :
    (asking building (ask 0x17 2 4 [5, 37])).Turn .removeUser (ask 0x17 2 4 [5, 37]) [] ∧
    authorise .removeUser (ask 0x17 2 4 [5, 37]) [building.bindUser 1317] building = .ok () ∧
    (building.users.fetch 1317).map (·.owned) = some [76804, 77056, 133641, 133889] ∧ building.users.Sorted ∧
    building.jobs.Sorted ∧
    (∀ h ∈ [76804, 77056, 133641, 133889], ∃ j, building.jobNamed h = some j ∧ j.handle = h ∧ j.owner = 1317 ∧
      (j.state = .receiving ∨ j.state = .held)) := by
  refine ⟨turn_asking rfl (by decide), rfl, by decide, by decide, by decide, ?_⟩
  intro h hh
  simp only [List.mem_cons, List.not_mem_nil, or_false] at hh
  rcases hh with rfl | rfl | rfl | rfl <;> exact ⟨_, rfl, rfl, rfl, by decide⟩

/-- An ADJUST ACCOUNT of −2,000,000,000 on user 1317, and one of +2,000,000,000 on tenant 4. -/
def adjustUser : Request := ask 0x20 2 4 [0, 5, 37, 136, 202, 108, 0]
def adjustTenant : Request := ask 0x20 0 0 [1, 0, 4, 119, 53, 148, 0]

theorem test_witness_AdjustAccountClampsAndChecks :
    ((asking building adjustUser).Turn .adjustAccount adjustUser [] ∧ adjustUser.field 0 1 = 0 ∧
      adjustUser.field 1 2 = 1317 ∧ adjustUser.signedField 3 = -2000000000 ∧
      authorise .adjustAccount adjustUser [building.bindUser 1317] building = .ok () ∧
      (building.users.fetch 1317).map (·.account.used) = some 600 ∧
      ((0 : Nat) : Int) = max 0 (min 2000000000 ((600 : Nat) + (-2000000000 : Int)))) ∧
    ((asking building adjustTenant).Turn .adjustAccount adjustTenant [] ∧ adjustTenant.role = 0 ∧
      adjustTenant.field 0 1 = 1 ∧ adjustTenant.field 1 2 = 4 ∧ adjustTenant.signedField 3 = 2000000000 ∧
      (building.tenants.fetch 4).map (·.account.used) = some 15000 ∧
      ((2000000000 : Nat) : Int) = max 0 (min 2000000000 ((15000 : Nat) + (2000000000 : Int)))) :=
  ⟨⟨turn_asking rfl (by decide), by decide, by decide, by decide, rfl, by decide⟩,
    turn_asking rfl (by decide), rfl, by decide⟩

/-- A SET CALLOUT POLICY that carries every value at the top of its range. -/
def policyTop : Request := ask 0x82 1 0 [1, 255, 240, 240, 240, 240, 240, 240, 5, 160, 5, 160, 5, 160]

theorem test_witness_SettingsAreWrittenWhole :
    ((asking building (ask 0x21 0 0 [0, 0, 255, 255, 255, 0, 1, 2, 3])).Turn .setRates
        (ask 0x21 0 0 [0, 0, 255, 255, 255, 0, 1, 2, 3]) [] ∧
      (ask 0x21 0 0 [0, 0, 255, 255, 255, 0, 1, 2, 3]).body = [0#8, 0#8, 255#8, 255#8, 255#8, 0#8, 1#8, 2#8, 3#8] ∧
      (0#8).toNat ≤ (0#8).toNat ∧ (255#8).toNat ≤ (255#8).toNat ∧ (1#8).toNat ≤ (2#8).toNat) ∧
    ((asking State.reset (ask 0x36 0 0 [8])).Turn .setPartitions (ask 0x36 0 0 [8]) [] ∧
      (ask 0x36 0 0 [8]).body = [8#8] ∧ (8#8).toNat = 8 ∧ (∀ t ∈ State.reset.tenants, t.2.partition < 8) ∧
      State.reset.jobs = []) ∧
    ((asking building (ask 0x41 0 0 [120, 1])).Turn .setReleaseTiming (ask 0x41 0 0 [120, 1]) [] ∧
      (ask 0x41 0 0 [120, 1]).body = [120#8, 1#8]) ∧
    ((asking building policyTop).Turn .setCalloutPolicy policyTop [] ∧ policyTop.role = 1 ∧
      policyTop.field 0 2 = 511 ∧ (∀ i, i < 6 → policyTop.field (2 + i) 1 ≤ 240) ∧
      (∀ i, i < 3 → 1 ≤ policyTop.field (8 + 2 * i) 2 ∧ policyTop.field (8 + 2 * i) 2 ≤ 1440)) :=
  ⟨⟨turn_asking rfl (by decide), rfl, by decide⟩,
    ⟨turn_asking rfl (by decide), rfl, by decide, by decide, rfl⟩, ⟨turn_asking rfl (by decide), rfl⟩,
    turn_asking rfl (by decide), rfl, by decide⟩

/-! ### Witnesses: the held-job store -/

/-- A HOLD JOB of user 2210 with every field at the top of its range. -/
def holdTop : Request := ask 0x30 3 7 [8, 162, 255, 255, 255, 255, 1, 39, 15, 99, 4, 7, 2]

/-- The looks of user 2210 at submit sequence 0 in the one partition. -/
def look2210 (k : Nat) : Nat :=
  0 * 1024 + (if k = 0 then (2210 * 31 + 0) % 1024
    else (((2210 * 31 + 0) % 1024 + 1024 / 2) % 1024 + (k - 1)) % 1024)

/-- A job of no matter what, to occupy a slot. -/
def filler (slot : Nat) : Nat × Job := (slot, waitingJob (slot * 256) 1317 4 (paper 1 1 1 false false .s) true)

theorem test_witness_HoldJobTakesFirstFreeLook :
    let s := asking { building with jobs := [filler 926] } holdTop
    let t := asking { building with jobs := [414, 415, 416, 417, 418, 419, 420, 926].map filler } holdTop
    s.Turn .holdJob holdTop [] ∧ holdTop.field 0 2 = 2210 ∧
    authorise .holdJob holdTop [s.bindUser 2210] s = .ok () ∧ (holdTop.field 6 1 = 1 ∧ holdTop.field 7 2 = 9999 ∧
    holdTop.field 9 1 = 99 ∧ holdTop.field 10 1 = 4 ∧ holdTop.field 11 1 = 7 ∧ holdTop.field 12 1 = 2 ∧
    (s.users.fetch 2210).map (fun u => (u.jobCount, u.submitSeq, u.tenant)) = some (2, 0, 7) ∧
    (s.tenantOf 7).jobLimit = 8 ∧ (s.tenantOf 7).partition = 0 ∧ s.partitions = 1 ∧
    (∀ k, k < 1 → s.jobs.has (look2210 k) = true) ∧ s.jobs.has (look2210 1) = false ∧
    s.generation (look2210 1) < 256) ∧
    t.Turn .holdJob holdTop [] ∧ ∀ k, k < 8 → t.jobs.has (look2210 k) = true :=
  ⟨turn_asking rfl (by decide), by decide, rfl, by decide, turn_asking rfl (by decide), by decide⟩

/-- A request by the print server of a tenant that names a job. -/
def onJob (kind tenant h : Nat) : Request := ask kind 3 tenant [h / 65536, h / 256 % 256, h % 256]

/-- What the statements about a request that names a job ask of it. -/
def NamesJob (k : Kind) (q : Request) (h : Nat) : Prop :=
  let s := asking building q
  s.Turn k q [] ∧ q.field 0 3 = h ∧ authorise k q [s.bindJob h] s = .ok () ∧ h < 262144 ∧
    (s.jobNamed h).map (·.handle) = some h

theorem test_witness_CommitSpoolFollowsTheJobState :
    (NamesJob .commitSpool (onJob 0x31 4 133641) 133641 ∧
      (building.jobNamed 133641).map (·.state) = some .receiving) ∧
    (NamesJob .commitSpool (onJob 0x31 4 133889) 133889 ∧
      (building.jobNamed 133889).map (·.state) = some .held) ∧
    (NamesJob .commitSpool (onJob 0x31 7 23298) 23298 ∧
      (building.jobNamed 23298).map (fun j => (j.state, j.committed, j.charging.map (·.station))) =
        some (.queued, false, some 30) ∧
      building.stations.has 30 = true) :=
  ⟨⟨⟨turn_asking rfl (by decide), by decide, rfl, by decide⟩, by decide⟩,
    ⟨⟨turn_asking rfl (by decide), by decide, rfl, by decide⟩, by decide⟩,
    ⟨turn_asking rfl (by decide), by decide, rfl, by decide⟩, by decide⟩

theorem test_witness_CancelJobTakesOutOrWithdraws :
    (building.jobs.Sorted ∧ building.generations.Sorted) ∧
    (NamesJob .cancelJob (onJob 0x32 4 76804) 76804 ∧
      (building.jobNamed 76804).map (fun j => (j.cancelRequested, j.charging)) = some (false, none)) ∧
    (NamesJob .cancelJob (onJob 0x32 7 23298) 23298 ∧ (building.jobNamed 23298).map (·.cancelRequested) = some false ∧
      ∀ e ∈ station30.queue, e.handle = 23298 → e.sub = .waiting) ∧
    (NamesJob .cancelJob (onJob 0x32 7 23052) 23052 ∧ (building.jobNamed 23052).map (·.cancelRequested) = some false ∧
      ∃ e ∈ station30.queue, e.handle = 23052 ∧ e.sub = .sent) ∧
    (({ building with jobs := [(90, { releasedJob 23052 .printing true 20 with cancelRequested := true })] } :
      State).jobNamed 23052).map (·.cancelRequested) = some true :=
  ⟨by decide, ⟨⟨turn_asking rfl (by decide), by decide, rfl, by decide⟩, by decide⟩,
    ⟨⟨turn_asking rfl (by decide), by decide, rfl, by decide⟩, by decide⟩,
    ⟨⟨turn_asking rfl (by decide), by decide, rfl, by decide⟩, by decide⟩, by decide⟩

theorem test_witness_SpoolFaultDeletesInAnyState :
    (NamesJob .spoolFault (onJob 0x33 4 133641) 133641 ∧
      (building.jobNamed 133641).map (·.charging) = some none) ∧
    (NamesJob .spoolFault (onJob 0x33 7 23052) 23052 ∧
      (building.jobNamed 23052).map (fun j => j.charging.map (·.station)) = some (some 30) ∧
      building.stations.fetch 30 = some station30) :=
  ⟨⟨⟨turn_asking rfl (by decide), by decide, rfl, by decide⟩, by decide⟩,
    ⟨turn_asking rfl (by decide), by decide, rfl, by decide⟩, by decide⟩

theorem test_witness_StoreReadsChangeNothing :
    (NamesJob .getJob (onJob 0x34 4 76804) 76804 ∧ (building.jobNamed 76804).map (·.charging) = some none) ∧
    (NamesJob .getJob (onJob 0x34 7 23052) 23052 ∧
      (station30.queue.find? (fun e => e.handle = 23052)).isSome = true) ∧
    (let q := ask 0x35 3 4 [5, 37, 31]
     let s := asking building q
     s.Turn .listJobs q [] ∧ q.field 0 2 = 1317 ∧ q.field 2 1 = 31 ∧
     authorise .listJobs q [s.bindUser 1317] s = .ok () ∧
     (s.users.fetch 1317).map (fun u => (u.jobCount, u.owned.length)) = some (4, 4) ∧
     ∀ h ∈ [76804, 77056, 133641, 133889], (s.jobNamed h).isSome = true) :=
  ⟨⟨⟨turn_asking rfl (by decide), by decide, rfl, by decide⟩, by decide⟩,
    ⟨⟨turn_asking rfl (by decide), by decide, rfl, by decide⟩, by decide⟩,
    turn_asking rfl (by decide), by decide, by decide, rfl, by decide⟩

/-! ### Witnesses: release -/

/-- Station 30 with job 23298 committed or not, and nothing sent. -/
def unsent (committed : Bool) : State :=
  { building with
    jobs := [(91, releasedJob 23298 .queued committed 20)]
    stations := [(30, { station30 with queue := [{ handle := 23298, released := 7998 }] })] }

theorem test_witness_SendCheckSendsOldestCommitted :
    (building.stations.fetch 30 = some station30 ∧ ∃ e ∈ station30.queue, e.sub = .sent) ∧
    ((unsent false).jobNamed 23298).map (·.committed) = some false ∧
    (let s := unsent true
     let e : Entry := { handle := 23298, released := 7998 }
     (s.stations.fetch 30).map (fun x => (x.state, x.paused, x.queue)) = some (.inService, false, [] ++ e :: []) ∧
     e.sub = .waiting ∧
     (s.jobNamed 23298).map (fun j => (j.handle, j.committed, j.charging)) = some (23298, true, some (charged 20)) ∧
     s.links.has 30 = true ∧ s.mask.job = true ∧ s.notices.length < 64) ∧
    64 ≤ full.notices.length := by decide

theorem test_witness_CandidatesAreJudgedInOrder :
    let j := waitingJob 77056 1317 4 (paper 23 3 2 true true .s) true
    building.jobNamed 77056 = some j ∧ building.tenants.has j.tenant = true ∧ station30.state ≠ .probation ∧
    station30.queue.length ≤ 2 ^ station30.weight ∧
    (let x := { station30 with queue := station30.queue ++ station30.queue }
     x.queue.length = 2 ^ x.weight) ∧
    (let x : Station := { station30 with owner := 0 }
     x.owner = 0 ∧ 0 < x.surcharge ∧ j.tenant ≠ 0) := by decide

theorem test_witness_ReleaseReservesAndQueues :
    building.stations.fetch 30 = some station30 ∧
    building.jobNamed 133641 = some (waitingJob 133641 1317 4 (paper 10 1 1 false false .s) false) ∧
    building.users.has 1317 = true ∧ building.tenants.has 4 = true ∧
    station30.queue.length + 1 ≠ station30.midWater ∧
    (let x := { station30 with midWater := 3 }
     x.queue.length + 1 = x.midWater) := by decide

/-- What the statements about a good reply of station 30 ask of a state. -/
def Hears30 (s : State) (l : Link) : Prop := s.Heard reply30 (pollOf7 none) l ∧ l.accepted ≠ some reply30.seq

/-- A reply of a station is heard by a running state that awaits it and has the station's link record. -/
theorem hears {s : State} {h : ReplyHeader} {p : AwaitedPoll} {l : Link} (hr : s.resetHeld = false)
    (hp : (s.risers.item h.riser.val).awaited = some p ∧ (p.trial = false ∧ p.discarded = false ∧ p.drop = h.drop) ∧
      s.links.fetch (stationAt h.riser.val h.drop) = some l) : s.Heard h p l :=
  ⟨hr, hp.1, hp.2.1.1, hp.2.1.2.1, hp.2.1.2.2, hp.2.2⟩

/-- The example's state hears station 30. -/
theorem heard_building : Hears30 (polled building) { accepted := some false } :=
  ⟨hears rfl (by decide), by decide⟩

/-- One user, with one job that fits station 30, or one of a size it does not take. -/
def oneJob (size : SizeClass) : State :=
  { building with
    users := [(1317, { badge := 555, tenant := 4, jobCount := 1, owned := [76804] })]
    jobs := [(300, waitingJob 76804 1317 4 (paper 4 1 1 false false size) true)] }

/-- The one user of `oneJob`. -/
def oneUser : User := { badge := 555, tenant := 4, jobCount := 1, owned := [76804] }

/-- The user of the example, with four candidates. -/
def fourJobs : User :=
  { badge := 555, tenant := 4, quotaMode := .limited, allowance := 2000, account := { used := 600 }, jobCount := 4
    owned := [76804, 77056, 133641, 133889] }

/-- Station 30 with its four places taken. -/
def crowded30 : Station := { station30 with queue := station30.queue ++ station30.queue }

theorem test_witness_BadgeIsPresentedAtItsStation :
    Hears30 (polled building) { accepted := some false } ∧
    ((polled building).acceptEvent reply30 (pollOf7 none) { accepted := some false }).stations.has
      (stationOf reply30) = true ∧
    (∀ p ∈ building.users, p.2.badge ≠ 4294967295) ∧
    (let s : State := { building with users := [(1317, { oneUser with state := .suspended })] }
     s.users.find? (fun p => p.2.badge = 555) = some (1317, { oneUser with state := .suspended })) ∧
    (let s : State := { building with
       users := [(1317, oneUser)]
       stations := [(29, { station30 with floor := 2 }),
         (30, { station30 with state := .parked, neighbours := [31, 29] })] }
     s.users.find? (fun p => p.2.badge = 555) = some (1317, oneUser) ∧
     [31, 29] = [31] ++ 29 :: ([] : List Nat) ∧ s.stations.fetch 31 = none ∧
     (s.stations.fetch 29).map (fun y => y.qualifies 4) = some true) ∧
    ((4 : Nat) ≠ 0 ∧ 4 ≠ station30.owner ∧ 4 ∉ ({ station30 with admitted := [5] } : Station).admitted) ∧
    (∀ k ∈ [23052, 23298], ∀ j ∈ building.jobNamed k, j.state ≠ .receiving ∧ j.state ≠ .held) ∧
    ((oneJob .s).candidates oneUser = [76804] ∧
      (oneJob .s).judge 30 station30 oneUser (waitingJob 76804 1317 4 (paper 4 1 1 false false .s) true) =
        (.release, some { charged 12 with surcharge := 50 })) ∧
    ((oneJob .e).candidates oneUser = [76804] ∧
      (oneJob .e).judge 30 station30 oneUser (waitingJob 76804 1317 4 (paper 4 1 1 false false .e) true) =
        (.skip .media, none)) ∧
    (building.users.fetch 1317 = some fourJobs ∧ building.candidates fourJobs = [76804, 77056, 133641, 133889] ∧
      (building.judge 30 station30 fourJobs (waitingJob 76804 1317 4 (paper 4 1 1 false false .e) true)).1 =
        .skip .media ∧
      (building.judge 30 station30 fourJobs (waitingJob 77056 1317 4 (paper 23 3 2 true true .s) true)).1 = .release ∧
      (building.judge 30 station30 fourJobs
        (waitingJob 77056 1317 4 (paper 23 3 2 true true .s) true)).2.isSome = true ∧
      (building.judge 30 crowded30 fourJobs (waitingJob 133889 1317 4 (paper 6 1 1 false false .s) true)).1 =
        .skip .queueFull) ∧
    ((with30 (oneJob .s) crowded30).candidates oneUser = [76804] ∧
      ((with30 (oneJob .s) crowded30).judge 30 crowded30 oneUser
        (waitingJob 76804 1317 4 (paper 4 1 1 false false .s) true)).1 = .skip .queueFull) :=
  ⟨heard_building, by decide⟩

theorem test_witness_ProbeSaysWhatABadgeWouldShow :
    (let q := ask 0x40 0 0 [0, 0, 0, 5, 37, 30]
     let s := asking building q
     s.Turn .probeRelease q [] ∧
     authorise .probeRelease q [s.bindProbed (q.field 0 1) (q.field 1 4)] s = .ok () ∧
     q.field 0 1 = 0 ∧ q.field 1 4 = 1317 ∧ s.users.has 1317 = true ∧ q.field 5 1 = 30 ∧ s.stations.has 30 = true ∧
     s.links.has 30 = true ∧ (s.users.find? (fun p => p.2.badge = 555)).map (·.1) = some 1317) ∧
    (let q := ask 0x40 2 7 [1, 0, 0, 2, 44, 30]
     let s := asking building q
     s.Turn .probeRelease q [] ∧
     authorise .probeRelease q [s.bindProbed (q.field 0 1) (q.field 1 4)] s = .ok () ∧
     q.field 0 1 = 1 ∧ q.field 1 4 = 556 ∧ (s.users.find? (fun p => p.2.badge = 556)).map (·.1) = some 2210) :=
  ⟨⟨turn_asking rfl (by decide), rfl, by decide⟩, turn_asking rfl (by decide), rfl, by decide⟩

/-! ### Witnesses: the station directory -/

/-- Station 30 with a TONER fault of a colour set in a link state, its black covered by a placed reorder. -/
def tonerLow (colours : ColourSet) (link : CalloutLink) : State :=
  { building with
    faults := [(244, ⟨30, .toner, colours, 7000, link⟩)]
    reorders := [{ number := 65535, station := 30, colour := .k, tenant := 7, state := .placed, created := 7000
                   cause := .floor, level := 8, cover := 999 }] }

/-- The sets black, cyan, and both. -/
def onlyK : ColourSet := ⟨true, false, false, false⟩
def onlyC : ColourSet := ⟨false, true, false, false⟩
def bothKC : ColourSet := ⟨true, true, false, false⟩

/-- Station 30 in another state, with a queue of its own. -/
def station30In (state : StationState) (queue : List Entry) : Station := { station30 with state := state, queue := queue }

/-- An ADMIT STATION of station 30 that carries every field at the top of its range. -/
def admitTop : Request := ask 0x50 0 0 [30, 15, 4, 0, 0, 0, 144, 200, 5]

/-- Sixteen stations of capacity 32 beside station 30, which leave no place in the pool. -/
def noPool : State :=
  { building with
    stations := (30, station30In .probation []) ::
      (List.range' 31 16).map (fun n => (n, { station30In .inService [] with weight := 5 })) }

theorem test_witness_AdmitPutsStationInDerivedState :
    let s := asking (with30 building (station30In .probation [])) admitTop
    let t := asking noPool admitTop
    s.Turn .admitStation admitTop [] ∧ (admitTop.role = 0 ∧ admitTop.field 0 1 = 30 ∧ admitTop.field 1 1 = 15 ∧
    (s.stations.fetch 30).map (·.state) = some .probation ∧ s.tenants.has (admitTop.field 2 1) = true ∧
    (admitTop.field 3 4).testBit 0 = false ∧
    (∀ t, t < 32 → (admitTop.field 3 4).testBit t = true → s.tenants.has t = true) ∧ admitTop.field 7 1 = 200 ∧
    admitTop.field 8 1 = 5 ∧ 2 ^ 5 ≤ s.freePool) ∧
    t.Turn .admitStation admitTop [] ∧ ((t.stations.fetch 30).map (·.state) = some .probation ∧ t.freePool < 2 ^ 5) ∧
    (((tonerLow onlyK (.waiting none)).faults.fetch (30 * 8 + classCode .toner)).map (·.link) = some (.waiting none) ∧
      (∀ col ∈ [Toner.k, .c, .m, .y], onlyK.contains col = true → (tonerLow onlyK (.waiting none)).covered 30 col = true) ∧
      onlyC.contains .c = true ∧ (tonerLow onlyC (.waiting none)).covered 30 .c = false) ∧
    (building.policy.delay .service = 0 ∧ 0 < building.policy.delay .jam) :=
  ⟨turn_asking rfl (by decide), by decide, turn_asking rfl (by decide), by decide⟩

/-- Station 30 out of service by a door fault in a link state. -/
def doorOpen (link : CalloutLink) : State :=
  { with30 building (station30In .outOfService station30.queue) with
    faults := [(242, ⟨30, .door, ⟨false, false, false, false⟩, 7000, link⟩)] }

/-- `building` is canonical. -/
theorem canonical_building : building.Canonical :=
  by constructor <;> decide

/-- Station 30 with one entry that waits. -/
def waiting30 : Station := station30In .inService [{ handle := 23298, released := 7998, commitDeadline := some 8028 }]

theorem test_witness_ParkAndUnparkMoveTheStation :
    (let q := ask 0x51 1 0 [30]
     let s := asking (with30 building waiting30) q
     s.Turn .parkStation q [] ∧ q.role = 1 ∧ q.field 0 1 = 30 ∧ s.Canonical ∧
     (s.stations.fetch 30).map (fun x => (x.state, x.queue.length)) = some (.inService, 1) ∧
     ∀ e ∈ waiting30.queue, e.sub = .waiting) ∧
    (∃ e ∈ station30.queue, e.sub = .sent) ∧ (station30In .probation []).state = .probation ∧
    (let q := ask 0x52 0 0 [30]
     let s := asking (with30 building (station30In .parked [])) q
     s.Turn .unparkStation q [] ∧ q.role = 0 ∧ q.field 0 1 = 30 ∧
     (s.stations.fetch 30).map (·.state) = some .parked) ∧
    (∀ state ∈ [StationState.probation, .parked, .inService, .degraded],
      ((with30 building (station30In state station30.queue)).stations.fetch 30).map (·.state) = some state) ∧
    (∀ link ∈ [CalloutLink.waiting (some 8010), .called 65535],
      ((doorOpen link).stations.fetch 30).map (·.state) = some .outOfService ∧
      ((doorOpen link).activeFaults 30).map (fun f => (f.cls, f.link)) = [(.door, link)]) ∧
    (building.jobNamed 23298).map (·.handle) = some 23298 :=
  ⟨⟨turn_asking rfl (by decide), rfl, by decide,
      by constructor <;> decide, by decide⟩,
    by decide, rfl, ⟨turn_asking rfl (by decide), rfl, by decide⟩, by decide⟩

/-- A SET STATION of station 30 that carries every field, the last with a mark above the capacity. -/
def setTop : Request := ask 0x53 0 0 [30, 3, 255, 3, 7, 4, 0, 0, 0, 144, 200, 127, 4, 0, 29, 31, 95, 5, 255]

/-- A colour job released at station 30, which takes fallback or not. -/
def colourJob (fallback : Bool) : Job :=
  { releasedJob 23298 .queued false 40 with descriptor := paper 10 1 1 false true .s fallback }

/-- The example's state with that job. -/
def withColourJob (fallback : Bool) : State := { building with jobs := [(91, colourJob fallback)] }

/-- The clauses about a change of capabilities, of every job there is. -/
theorem test_witness_SetStationWritesCarriedFields_capabilities :
    building.Canonical ∧ building.stations.fetch 30 = some station30 ∧
    (station30.colour = true ∧ ({ station30 with colour := false } : Station).colour = false) ∧
    (⟨true, false, false⟩ : SizeSet) ≠ ⟨false, false, false⟩ ∧
    (((building.clearFault 30 .toner ⟨false, true, true, true⟩).stations.fetch 30).isSome = true) ∧
    (building.jobNamed 23298 = some (releasedJob 23298 .queued false 20) ∧
      (releasedJob 23298 .queued false 20).charging ≠ none ∧
      (⟨true, false, false⟩ : SizeSet).contains (releasedJob 23298 .queued false 20).descriptor.sizeClass = true ∧
      (⟨false, true, true⟩ : SizeSet).contains (releasedJob 23298 .queued false 20).descriptor.sizeClass = false) ∧
    (∀ fallback ∈ [true, false], (withColourJob fallback).jobNamed 23298 = some (colourJob fallback) ∧
      (colourJob fallback).descriptor.colour = true ∧ (charged 40).fallback = false ∧
      (colourJob fallback).descriptor.fallback = fallback ∧ (colourJob fallback).charging = some (charged 40)) :=
  ⟨by constructor <;> decide, by decide⟩

theorem test_witness_SetStationWritesCarriedFields :
    let s := asking (with30 building (station30In .parked [])) setTop
    s.Turn .setStation setTop [] ∧ setTop.role = 0 ∧ setTop.field 0 1 = 30 ∧ setTop.field 1 2 = 1023 ∧
    (s.stations.fetch 30).map (fun x => (x.state, x.capacity)) = some (.parked, 4) ∧ setTop.field 3 1 = 3 ∧
    setTop.field 4 1 = 7 ∧ s.tenants.has (setTop.field 5 1) = true ∧ (setTop.field 6 4).testBit 0 = false ∧
    (∀ t, t < 32 → (setTop.field 6 4).testBit t = true → s.tenants.has t = true) ∧ setTop.field 10 1 = 200 ∧
    setTop.field 11 1 = 127 ∧ setTop.field 12 1 = 4 ∧ (∀ n ∈ [0, 29, 31, 95], n < 96 ∧ n ≠ 30) ∧
    [0, 29, 31, 95].Nodup ∧ setTop.field 17 1 = 5 ∧ setTop.field 18 1 ≠ 0 ∧ 2 ^ 5 ≤ 4 + s.freePool :=
  ⟨turn_asking rfl (by decide), rfl, by decide⟩

theorem test_witness_RetireLeavesNothingOfTheStation :
    let q := ask 0x54 0 0 [30]
    let s := asking (with30 building (station30In .parked [])) q
    s.Turn .retireStation q [] ∧ q.role = 0 ∧ q.field 0 1 = 30 ∧ s.Canonical ∧
    (s.stations.fetch 30).map (·.state) = some .parked ∧
    ((with30 building (station30In .probation [])).stations.fetch 30).map (·.state) = some .probation :=
  ⟨turn_asking rfl (by decide), rfl, by decide,
    by constructor <;> decide, by decide⟩

/-- A riser whose sweep has one address left. -/
def sweeping : State :=
  { building with risers := building.risers.write 3 { sweep := some { addresses := [24], tried := 23, found := 2 } } }

/-- A riser with a station at every drop address. -/
def allPlaces : State := { building with stations := (List.range' 72 24).map (fun n => (n, station30In .parked [])) }

theorem test_witness_SweepAndLinkResetActOnOneRiser :
    (let q := ask 0x60 1 0 [3]
     (asking building q).Turn .sweepRiser q [] ∧ q.role = 1 ∧ q.field 0 1 = 3 ∧
     (building.risers.item 3).sweep = none ∧
     (List.range' 1 24).filter (fun d => !building.stations.has (3 * 24 + (d - 1))) ≠ [] ∧
     (asking sweeping q).Turn .sweepRiser q [] ∧ (sweeping.risers.item 3).sweep ≠ none ∧
     (asking allPlaces q).Turn .sweepRiser q [] ∧
     (List.range' 1 24).filter (fun d => !allPlaces.stations.has (3 * 24 + (d - 1))) = []) ∧
    (let q := ask 0x61 0 0 [3, 4]
     (asking sweeping q).Turn .linkReset q [] ∧ q.role = 0 ∧ q.field 0 1 = 3 ∧ q.field 1 1 = 4 ∧
     (asking building q).Turn .linkReset q []) :=
  ⟨⟨turn_asking rfl (by decide), rfl, by decide, by decide, by decide, turn_asking rfl (by decide), by decide,
      turn_asking rfl (by decide), by decide⟩,
    turn_asking rfl (by decide), rfl, by decide, by decide, turn_asking rfl (by decide)⟩

theorem test_witness_DirectoryReadsChangeNothing :
    (let q := ask 0x55 2 7 [30]
     let s := asking building q
     s.Turn .getStation q [] ∧ q.field 0 1 = 30 ∧ authorise .getStation q [s.bindStation 30] s = .ok () ∧
     s.stations.has 30 = true ∧ s.links.has 30 = true) ∧
    (let q := ask 0x70 2 7 [30, 3]
     let s := asking building q
     s.Turn .getConsumable q [] ∧ q.field 0 1 = 30 ∧ q.field 1 1 = 3 ∧
     authorise .getConsumable q [s.bindStation 30] s = .ok () ∧ s.consumables.has (30 * 4 + 3) = true ∧
     s.tenants.has station30.owner = true) ∧
    (let q := ask 0x71 0 0 [255]
     (asking building q).Turn .listReorders q [] ∧ q.role = 0 ∧ q.field 0 1 = 255) ∧
    (let q := ask 0x71 2 7 [30]
     let s := asking building q
     s.Turn .listReorders q [] ∧ q.role = 2 ∧ q.field 0 1 = 30 ∧ s.tenants.has q.tenant = true ∧
     (s.stations.fetch 30).map (·.owner) = some q.tenant) ∧
    (let q := ask 0x71 2 7 [255]
     (asking building q).Turn .listReorders q [] ∧ q.role = 2 ∧ building.tenants.has q.tenant = true ∧ q.field 0 1 = 255) ∧
    (let q := ask 0x83 1 0 [95]
     (asking building q).Turn .listCallouts q [] ∧ q.role = 1 ∧ q.field 0 1 = 95) ∧
    (let s := tonerLow bothKC (.pending 7999)
     let s : State := { s with
       callouts := [(65535, ⟨30, .toner, 2, .acknowledged, 7000, none, 1⟩)], pendingFaults := [(30, .toner)] }
     (s.listedCallouts 255).map (fun x => (x.record.cls, x.record.state, x.colours)) =
       [(.toner, .acknowledged, some bothKC)] ∧
     s.listedPending.map (fun x => (x.station, x.cls, x.fellDue)) = [(30, .toner, 7999)] ∧
     (s.faults.fetch (30 * 8 + classCode .toner)).map (·.link) = some (.pending 7999)) ∧
    (let q := ask 0x93 1 0 []
     (asking building q).Turn .readInterval q [] ∧ q.role = 1) :=
  ⟨⟨turn_asking rfl (by decide), by decide, rfl, by decide⟩,
    ⟨turn_asking rfl (by decide), by decide, by decide, rfl, by decide⟩,
    ⟨turn_asking rfl (by decide), rfl, by decide⟩,
    ⟨turn_asking rfl (by decide), rfl, by decide⟩,
    ⟨turn_asking rfl (by decide), rfl, by decide⟩, ⟨turn_asking rfl (by decide), rfl, by decide⟩, by decide,
    turn_asking rfl (by decide), rfl⟩

/-! ### Witnesses: reorders, callouts, the clock and the counters -/

/-- Reorder 65,535, for the black of station 30, in a state. -/
def reorderIn (state : ReorderState) (due : Option Nat) : Reorder :=
  { number := 65535, station := 30, colour := .k, tenant := 7, state := state, created := 7000, cause := .floor
    level := 8, cover := 999, due := due }

/-- The example's state with reorder 65,535 and the supplies account of tenant 7. -/
def reordered (state : ReorderState) (allowance used : Nat) : State :=
  { building with
    reorders := [reorderIn state none]
    tenants := [(7, { suppliesMode := .limited, suppliesAllowance := allowance, suppliesUsed := used })] }

/-- What the statements about a request that names reorder 65,535 ask of it. -/
def NamesReorder (k : Kind) (q : Request) (s : State) : Prop :=
  (asking s q).Turn k q [] ∧ q.field 0 2 = 65535 ∧ authorise k q [s.bindReorder 65535] s = .ok () ∧
    s.tenants.has 7 = true ∧ (s.reorders.find? (fun o => o.number = 65535)).map (·.tenant) = some 7

theorem test_witness_ReordersAreApprovedPlacedAndCancelled :
    (let q := ask 0x72 0 0 [255, 255]
     let p := ask 0x72 2 7 [255, 255]
     NamesReorder .approveReorder q (reordered .deferred 999 999) ∧ q.role = 0 ∧
     NamesReorder .approveReorder q (reordered .deferred 1000 1000) ∧
     NamesReorder .approveReorder p (reordered .deferred 999 999) ∧ p.role ≠ 0 ∧
     NamesReorder .approveReorder p (reordered .deferred 999 998) ∧
     NamesReorder .approveReorder p (reordered .placed 999 998)) ∧
    (let q := ask 0x73 2 7 [255, 255, 168, 192]
     NamesReorder .placeReorder q (reordered .proposed 999 998) ∧ q.field 2 2 = 43200 ∧
     NamesReorder .placeReorder q (reordered .deferred 999 998)) ∧
    (let q := ask 0x74 2 7 [255, 255]
     NamesReorder .cancelReorder q (reordered .deferred 999 998) ∧
     NamesReorder .cancelReorder q (reordered .placed 999 1)) := by
  refine ⟨⟨?_, rfl, ?_, ?_, by decide, ?_, ?_⟩, ⟨?_, by decide, ?_⟩, ?_, ?_⟩ <;>
    exact ⟨turn_asking rfl (by decide), by decide, rfl, by decide⟩

/-- Callout 65,535 in a state, with two faults pending where `pend`. -/
def calledOut (state : CalloutState) (pend : Bool) : State :=
  { building with
    callouts := [(65535, ⟨30, .door, 2, state, 7000, none, 1⟩)]
    nextCallout := 65535
    pendingFaults := if pend then [(30, .jam), (31, .paper)] else [] }

/-- The same with the next number free. -/
def calledOutNext : State := { calledOut .resolved true with nextCallout := 1 }

theorem test_witness_CalloutsAreAcknowledgedAndClosed :
    (let q := ask 0x80 1 0 [255, 255]
     (asking (calledOut .stalled false) q).Turn .ackCallout q [] ∧ q.role = 1 ∧ q.field 0 2 = 65535 ∧
     (∀ x ∈ [CalloutState.resolved, .acknowledged, .opened, .stalled],
       ((calledOut x false).callouts.fetch 65535).map (·.state) = some x)) ∧
    (let q := ask 0x81 0 0 [255, 255]
     (asking (calledOut .resolved false) q).Turn .closeCallout q [] ∧ q.role = 0 ∧ q.field 0 2 = 65535 ∧
     (calledOut .resolved false).callouts.Sorted ∧ (calledOut .resolved false).pendingFaults = [] ∧
     (asking calledOutNext q).Turn .closeCallout q [] ∧
     calledOutNext.pendingFaults = (30, .jam) :: [(31, .paper)] ∧
     calledOutNext.callouts.has calledOutNext.nextCallout = false) :=
  ⟨⟨turn_asking rfl (by decide), rfl, by decide⟩,
    turn_asking rfl (by decide), rfl, by decide, by decide, rfl, turn_asking rfl (by decide), rfl, by decide⟩

theorem test_witness_SetClockMakesDeadlinesFallDue :
    (let q := ask 0x91 0 0 [255, 255, 255, 255]
     (asking building q).Turn .setClock q [] ∧ q.role = 0 ∧ q.field 0 4 = 4294967295 ∧ building.clock < 4294967295) ∧
    (let q := ask 0x91 0 0 [0, 0, 31, 64]
     (asking building q).Turn .setClock q [] ∧ q.field 0 4 = 8000 ∧ 8000 ≤ building.clock) ∧
    ((reordered .placed 999 998).reorders.map (·.number)).Nodup ∧ building.Canonical :=
  ⟨⟨turn_asking rfl (by decide), rfl, by decide⟩, ⟨turn_asking rfl (by decide), by decide⟩, by decide,
    canonical_building⟩

/-- Counters at the ends of their ranges: IC0 at 1, IC1 stopped, IC2 counting impressions, IC3 far from its end. -/
def counting : State :=
  { building with
    counters :=
      { q0 := ⟨.minutes, 1, 1⟩, q1 := ⟨.minutes, 0, 0⟩, q2 := ⟨.impressions, 1000, 300⟩, q3 := ⟨.minutes, 60, 60⟩ } }

theorem test_witness_CountersAreWrittenAndCount :
    (let q := ask 0x92 0 0 [3, 1, 15, 66, 64]
     (asking building q).Turn .setInterval q [] ∧ q.role = 0 ∧ q.field 0 1 = 3 ∧ q.field 1 1 = 1 ∧
     q.field 2 3 = 1000000) ∧
    (counting.resetHeld = false ∧ (counting.counters.item 0).count ≤ 1 ∧ (counting.counters.item 0).preload ≠ 0 ∧
      (counting.counters.item 1).preload = 0 ∧ (counting.counters.item 2).source = .impressions ∧
      (counting.counters.item 3).source = .minutes ∧ ¬(counting.counters.item 3).count ≤ 1) :=
  ⟨⟨turn_asking rfl (by decide), rfl, by decide⟩, by decide⟩

/-- An expiry of every counter on its way. -/
def expiring : State :=
  { calledOut .stalled false with
    expiries := [⟨0, .minutes, 43200⟩, ⟨1, .minutes, 43200⟩, ⟨2, .minutes, 1440⟩, ⟨3, .minutes, 60⟩] }

theorem test_witness_ExpiriesActAtTheirOwners :
    expiring.resetHeld = false ∧
    (∀ n : Fin 4, (expiring.expiries.find? (fun e => e.counter = n.val)).map (·.counter) = some n.val) ∧
    (∀ r ∈ expiring.reorders, r.state ≠ .deferred) ∧
    (reorderIn .deferred none).state = .deferred ∧ (reorderIn .placed none).state ≠ .deferred ∧
    (∀ used ∈ [998, 999], ((reordered .deferred 999 used).tenants.fetch (reorderIn .deferred none).tenant).map
      (fun t => (t.suppliesMode, t.suppliesAllowance, t.suppliesUsed)) = some (.limited, 999, used)) ∧
    ((building.tenants.fetch 4).map (·.suppliesMode)) = some .unlimited := by decide

/-! ### Witnesses: the riser links -/

/-- Station 30's link with another record. -/
def linked (l : Link) : State := { building with links := [(30, l)] }

theorem test_witness_PollVisitsTheNextAddress :
    (let s : State := { building with risers := building.risers.write 1 { position := 7, again := 3 } }
     s.resetHeld = false ∧ (s.risers.item 1).awaited = none ∧ (s.risers.item 1).again ≠ 0 ∧
     s.links.has (1 * 24 + (7 - 1)) = true) ∧
    ((building.risers.item 1).awaited = none ∧ (building.risers.item 1).again = 0 ∧
      (building.risers.item 1).position = 1 ∧ (∀ k, 1 ≤ k → k < 7 → building.visits 1 k = false) ∧
      building.visits 1 7 = true) ∧
    ((sweeping.risers.item 3).awaited = none ∧ (sweeping.risers.item 3).position = 1 ∧
      (∀ k, 1 ≤ k → k < 24 → sweeping.visits 3 k = false) ∧ sweeping.visits 3 24 = true) ∧
    (let s := linked { accepted := some true, misses := 3, silent := true, phase := 1 }
     (s.risers.item 1).awaited = none ∧ (s.risers.item 1).again = 0 ∧ (s.risers.item 1).position = 1 ∧
     ∀ k, 1 ≤ k → k ≤ 24 → s.visits 1 k = false) := by
  refine ⟨by decide, ⟨rfl, rfl, rfl, ?_, by decide⟩, ⟨rfl, rfl, ?_, by decide⟩, rfl, rfl, rfl, ?_⟩
  · intro k h1 h2
    have h : ∀ k, k < 7 → 1 ≤ k → building.visits 1 k = false := by decide
    exact h k h2 h1
  · intro k h1 h2
    have h : ∀ k, k < 24 → 1 ≤ k → sweeping.visits 3 k = false := by decide
    exact h k h2 h1
  · intro k h1 h2
    have h : ∀ k, k < 25 → 1 ≤ k →
        (linked { accepted := some true, misses := 3, silent := true, phase := 1 }).visits 1 k = false := by decide
    exact h k (Nat.lt_succ_of_le h2) h1

theorem test_witness_ThirdMissSilencesTheStation :
    (polled building).resetHeld = false ∧ ((polled building).risers.item 1).awaited = some (pollOf7 none) ∧
    (pollOf7 none).discarded = false ∧ (pollOf7 none).trial = false ∧
    (∀ l ∈ [({ accepted := none, misses := 1 } : Link), { accepted := none, misses := 2 },
        { accepted := none, misses := 3, silent := true }],
      (polled (linked l)).links.fetch (1 * 24 + (7 - 1)) = some l) ∧
    ({ reply30 with drop := 24 } : ReplyHeader).drop ≠ (pollOf7 none).drop := by decide

/-- The sweep of riser 3 with its last trial awaited. -/
def trying : State := sweeping.nextPoll 3

theorem test_witness_SweepTrialFindsAStation :
    (trying.resetHeld = false ∧
      ((trying.risers.item 3).awaited).map (fun p => (p.drop, p.trial, p.discarded)) = some (24, true, false)) ∧
    ((4 : Nat) ≤ (4#8).toNat ∧ 8 ≤ (8#8).toNat ∧ (3#8).toNat < 4 ∧ (7#8).toNat ≠ 0 ∧ (7#8).toNat < 8) ∧
    (sweeping.resetHeld = false ∧ (sweeping.risers.item 3).awaited = none) ∧
    ((sweeping.risers.item 3).sweep.map (fun w => (w.addresses, w.addresses.erase 24)) = some ([24], [])) ∧
    ([23, 24].erase 24 ≠ []) := by decide

theorem test_witness_RepliesWithoutANewEvent :
    (polled building).Heard reply30 (pollOf7 none) { accepted := some false } ∧
    (polled (linked { accepted := some true })).Heard reply30 (pollOf7 none) { accepted := some true } ∧
    ({ accepted := some true } : Link).accepted = some reply30.seq ∧
    (let l : Link := { accepted := some true, commands := [.queryLevels, .queryLevels], held := [.withdraw 5] }
     let s : State := { linked l with
       risers := building.risers.write 1 { position := 7, awaited := some (pollOf7 (some .queryLevels)) } }
     s.Heard { reply30 with taken := true } (pollOf7 (some .queryLevels)) l ∧
     l.commands.contains .queryLevels = true) ∧
    (let l : Link := { accepted := some true, misses := 3, silent := true, phase := 15 }
     (polled (linked l)).Heard reply30 (pollOf7 none) l) :=
  ⟨heard_building.1, hears rfl (by decide), rfl, ⟨hears rfl (by decide), by decide⟩,
    hears rfl (by decide)⟩

/-- A state after a new event of station 30's is accepted. -/
def accepted30 (s : State) : State :=
  (polled s).acceptEvent reply30 (pollOf7 none) { accepted := some false }

theorem test_witness_HelloPauseAndResumeWriteTheStation :
    Hears30 (polled building) { accepted := some false } ∧
    (accepted30 building).stations.fetch (stationOf reply30) = some station30 ∧ station30.paused = false ∧
    (accepted30 (with30 building { station30 with paused := true })).stations.fetch (stationOf reply30) =
      some { station30 with paused := true } ∧
    ((3#8).toNat < 4 ∧ (7#8).toNat ≠ 0 ∧ (7#8).toNat < 8 ∧ 4 ≤ (4#8).toNat ∧ 8 ≤ (8#8).toNat) :=
  ⟨heard_building, by decide, rfl, by decide⟩

/-! ### Witnesses: reports, levels and faults -/

/-- Job 23052 sent at station 30 and not yet started. -/
def notStarted : State := { building with jobs := [(90, releasedJob 23052 .queued true 20)] }

theorem test_witness_StartAndProgressFollowTheJob :
    Hears30 (polled building) { accepted := some false } ∧
    (accepted30 building).Matched (stationOf reply30) (5772#16).toNat (releasedJob 23052 .printing true 20) (charged 20)
      station30 ∧
    (accepted30 notStarted).Matched (stationOf reply30) (5772#16).toNat (releasedJob 23052 .queued true 20) (charged 20)
      station30 ∧
    ((accepted30 building).jobs.fetch ((65535#16).toNat / 64) = none ∧
      (accepted30 building).generation ((5773#16).toNat / 64) % 64 ≠ (5773#16).toNat % 64 ∧
      ∀ e ∈ station30.queue, e.handle = 23298 → e.sub = .waiting) :=
  ⟨heard_building,
    by constructor <;> decide,
    by constructor <;> decide, by decide⟩

theorem test_witness_EndAndAbortSettleTheJob :
    Hears30 (polled building) { accepted := some false } ∧
    (accepted30 building).Matched (stationOf reply30) (5772#16).toNat (releasedJob 23052 .printing true 20) (charged 20)
      station30 ∧
    building.users.has 2210 = true ∧ building.tenants.has 7 = true ∧ building.stations.has 30 = true ∧
    (∀ k, k < 4 → (State.reset.counters.item k).source = .minutes) ∧
    ((counting.counters.item 2).source = .impressions ∧ (counting.counters.item 2).preload ≠ 0 ∧
      (∀ m, m < 4 → m ≠ 2 → (counting.counters.item m).source = .minutes) ∧
      299 < (counting.counters.item 2).count) :=
  ⟨heard_building, by constructor <;> decide, by decide⟩

/-- Station 30's black record alone, with reorder 65,535 open or not. -/
def supplied (r : Consumable) : State := { reordered .placed 999 998 with consumables := [(120, r)] }

theorem test_witness_LevelsLearnTheYield :
    Hears30 (polled building) { accepted := some false } ∧ (accepted30 building).stations.has (stationOf reply30) = true ∧
    (∀ r ∈ [({} : Consumable), { level := some 30 }, { level := some 30, sinceChange := 4294967295, yield := 65535 },
        { level := some 30, reorder := some 65535 }],
      (supplied r).consumables.fetch (30 * 4 + tonerCode .k) = some r) ∧
    ((30 : Nat) ≤ 69 ∧ 69 < 30 + 40 ∧ 30 + 40 ≤ 70 ∧ 29 < 30) ∧
    ((supplied {}).reorders.find? (fun o => o.number = 65535) = some (reorderIn .placed none) ∧
      (reorderIn .placed none).station = 30 ∧ (reorderIn .placed none).colour = .k) ∧
    (let r : Consumable := { level := some 8, yield := 180, rate := 700 }
     let s : State := { supplied r with reorders := [] }
     s.stations.fetch 30 = some station30 ∧ station30.state ≠ .probation ∧
     (s.tenants.fetch 7).map (fun t => (t.leadCover, t.floorPercent)) = some (10, 8) ∧
     min (8 * 180 / 700) 999 ≤ 10 ∧ s.reorders.length < 64) ∧
    (let r : Consumable := { level := some 9, yield := 0, rate := 700, cover := 999 }
     (supplied r).consumables.fetch 120 = some r ∧ 10 < 999 ∧ 8 < 9) ∧
    ((supplied {}).tenants.has 7 = true ∧ (supplied {}).nextReorder = 1 ∧
      ∀ r ∈ (supplied {}).reorders, r.number ≠ (supplied {}).nextReorder) ∧
    onlyC.contains .c = true ∧ (tonerLow onlyC (.waiting none)).covered 30 .c = false ∧
    ((tonerLow onlyK (.waiting none)).faults.fetch (30 * 8 + 4)).map (fun f => (f.colours, f.link)) =
      some (onlyK, .waiting none) ∧ (tonerLow onlyK (.waiting none)).covered 30 .k = true :=
  ⟨heard_building, by decide⟩

/-- Station 30 with a fault of a class in a link state. -/
def faulty (cls : FaultClass) (link : CalloutLink) : State :=
  { calledOut .opened false with
    faults := [(30 * 8 + classCode cls, ⟨30, cls, ⟨false, false, false, false⟩, 7000, link⟩)] }

/-- The example's state with every place of the callout table taken, the callouts being another station's. -/
def allCalled : State :=
  { faulty .service (.waiting (some 8000)) with
    callouts := (List.range' 1 48).map (fun n => (n, ⟨31, .jam, 1, .acknowledged, 7000, none, 0⟩)) }

theorem test_witness_FaultsAreSetAndCleared :
    Hears30 (polled building) { accepted := some false } ∧
    (accepted30 building).stations.fetch (stationOf reply30) = some station30 ∧
    (FaultClass.jam ≠ .toner ∧ FaultClass.jam ≠ .silent ∧ (1#8).toNat = classCode .jam ∧
      (5#8).toNat = classCode .service ∧ 6 ≤ (6#8).toNat ∧ (15#8).toNat < 16 ∧ 16 ≤ (16#8).toNat) ∧
    (station30.state ≠ .probation ∧ building.faults.fetch (30 * 8 + classCode .jam) = none ∧
      building.callouts.find? (fun q => q.2.station = 30 && q.2.cls = .jam) = none ∧ 0 < building.policy.delay .jam ∧
      building.policy.delay .service = 0 ∧ building.callouts.length < 48 ∧
      building.callouts.has building.nextCallout = false) ∧
    (let col : Toner := .k
     (⟨true, false, false, false⟩ : ColourSet).contains col = true ∧ building.covered 30 col = false) ∧
    (48 ≤ allCalled.callouts.length ∧
      allCalled.callouts.find? (fun q => q.2.station = 30 && q.2.cls = .service) = none) ∧
    (((with30 building (station30In .probation [])).stations.fetch 30).map (·.state) = some .probation ∧
      (reordered .placed 999 998).covered 30 .k = true ∧
      (reordered .placed 999 998).faults.fetch (30 * 8 + classCode .toner) = none ∧
      (calledOut .resolved false).faults.fetch (30 * 8 + classCode .door) = none ∧
      ((calledOut .resolved false).callouts.find? (fun q => q.2.station = 30 && q.2.cls = .door)).isSome = true) ∧
    (((tonerLow onlyK .suppressed).faults.fetch (30 * 8 + classCode .toner)).map (fun f => (f.colours, f.link)) =
        some (onlyK, .suppressed) ∧
      onlyC.contains .c = true ∧ onlyK.contains .c = false ∧ onlyK.contains .k = true ∧
      (tonerLow onlyK .suppressed).covered 30 .c = false) ∧
    (((tonerLow bothKC (.waiting none)).faults.fetch (30 * 8 + 4)).map (fun f => (f.colours, f.link)) =
        some (bothKC, .waiting none) ∧
      bothKC.contains .k = true ∧ bothKC.contains .c = true ∧ (bothKC.minus onlyC).contains .k = true ∧
      (tonerLow bothKC (.waiting none)).covered 30 .k = true ∧ (tonerLow bothKC (.waiting none)).covered 30 .c = false) ∧
    (((faulty .door (.called 65535)).faults.fetch (30 * 8 + classCode .door)).map (·.link) = some (.called 65535) ∧
      ((calledOut .resolved false).callouts.fetch 65535).map (·.state) = some .resolved) ∧
    (∀ link ∈ [CalloutLink.suppressed, .waiting (some 8010), .pending 7000, .called 65535],
      (faulty .door link).faults.Sorted ∧
      ((faulty .door link).faults.fetch (30 * 8 + classCode .door)).map (·.link) = some link) ∧
    ((faulty .door (.called 65535)).callouts.fetch 65535).map (·.state) = some .opened ∧
    ((∀ x ∈ [StationState.probation, .parked, .outOfService],
        ((with30 (faulty .door .suppressed) (station30In x [])).stations.fetch 30).map (·.state) = some x) ∧
      ((faulty .door .suppressed).activeFaults 30).any (fun f => f.cls ≠ .toner || f.colours.k) = true) :=
  ⟨heard_building, by decide⟩

/-! ### Witnesses: deadlines and invariants -/

/-- Station 30 with job 23052 sent, under an entry's deadlines, and job 23298 waiting for its spool data. -/
def overdue (clock : Nat) : State :=
  { building with
    clock := clock
    jobs := [(90, releasedJob 23052 .queued true 20), (91, releasedJob 23298 .queued false 20),
      (522, waitingJob 133641 1317 4 (paper 10 1 1 false false .s) false)]
    stations := [(30, { station30 with
      queue := [{ handle := 23052, sub := .sent, released := 7990, startDeadline := some 8000, abandonDeadline := some 8000 },
        { handle := 23298, released := 7998, commitDeadline := some 8000 }] })] }

theorem test_witness_JobDeadlinesFallDue :
    (overdue 8440).resetHeld = false ∧
    (∀ clock ∈ [7999, 8000, 8440],
      (∀ h ∈ [23052, 23298, 133641], ((overdue clock).jobNamed h).map (·.handle) = some h ∧
        (overdue clock).jobs.fetch (h / 256) = (overdue clock).jobNamed h) ∧
      (∀ h ∈ [23052, 23298], ((overdue clock).jobNamed h).map (fun j => (j.charging, j.cancelRequested, j.holdDeadline)) =
        some (some (charged 20), false, 8440))) ∧
    ((overdue 8440).jobNamed 133641).map (fun j => (j.state, j.holdDeadline)) = some (.receiving, 8440) ∧
    ((overdue 8000).stations.fetch 30).map (fun x => x.queue.map (fun e =>
        (e.handle, e.startDeadline, e.commitDeadline, e.abandonDeadline))) =
      some [(23052, some 8000, none, some 8000), (23298, none, some 8000, none)] ∧
    ({ releasedJob 23052 .queued true 20 with cancelRequested := true } : Job).cancelRequested = true := by decide

theorem test_witness_OtherDeadlinesFallDue :
    (∀ c : FaultClass, c ∈ [FaultClass.jam, .door, .paper, .toner, .service, .silent] →
      ((faulty c (.waiting (some 8000))).faults.fetch (30 * 8 + classCode c)).map (·.link) =
        some (.waiting (some 8000)) ∧ 8000 ≤ (faulty c (.waiting (some 8000))).clock ∧
      (faulty c (.waiting (some 8001))).clock < 8001) ∧
    (∀ tier ∈ [1, 2, 3],
      let x : Callout := ⟨30, .door, tier, .opened, 7000, some 8000, 1⟩
      ({ building with callouts := [(65535, x)] } : State).callouts.fetch 65535 = some x ∧ 8000 ≤ building.clock ∧
      1 ≤ tier) ∧
    (calledOut .stalled false).resetHeld = false ∧
    (let s : State := { building with reorders := [reorderIn .placed (some 8000)] }
     s.reorders.find? (fun o => o.number = 65535) = some (reorderIn .placed (some 8000)) ∧ 8000 ≤ s.clock ∧
     (reorderIn .placed (some 8000)).overdue = false ∧ (reorderIn .proposed none).state ≠ .placed) ∧
    (((faulty .door (.waiting (some 8000))).callouts.find? (fun q => q.2.station = 30 && q.2.cls = .door)).map (·.1) =
        some 65535 ∧
      (let s : State := { faulty .jam (.waiting (some 8000)) with nextCallout := 1 }
       s.callouts.find? (fun q => q.2.station = 30 && q.2.cls = .jam) = none ∧ s.callouts.length < 48 ∧
       s.callouts.has s.nextCallout = false) ∧
      allCalled.faults.has (30 * 8 + classCode .service) = true ∧ 48 ≤ allCalled.callouts.length ∧
      allCalled.callouts.find? (fun q => q.2.station = 30 && q.2.cls = .service) = none) ∧
    (((tonerLow onlyK .suppressed).faults.fetch (30 * 8 + 4)).map (fun f => (f.colours, f.link)) =
        some (onlyK, .suppressed) ∧ onlyK.contains .k = true ∧ onlyK.contains .c = false) := by decide

/-- A poll waits in the example's state. -/
def stepping : State := { building with pending := [.poll 1] }

/-- The step of that poll ends in a next state. -/
theorem stepping_steps : ∃ t, step stepping = .next t := ⟨_, rfl⟩

theorem test_witness_EveryStepKeepsQueueCapacities : stepping.QueueInv ∧ ∃ t, step stepping = .next t := by
  refine ⟨⟨by decide, by decide, ?_⟩, stepping_steps⟩
  intro p hp
  have h : p = (30, { accepted := some false }) := List.mem_singleton.mp hp
  subst h
  constructor <;> decide

/-- A counter whose count lies in its range. -/
theorem counter_inv {c : Counter} (h : c.count ≤ c.preload ∧ (c.count = 0 ↔ c.preload = 0)) : c.inv := h

theorem test_witness_EveryStepKeepsCountsInRange : stepping.CountInv ∧ ∃ t, step stepping = .next t :=
  ⟨⟨by decide, counter_inv (by decide), counter_inv (by decide), counter_inv (by decide), counter_inv (by decide),
    by decide, by decide⟩, stepping_steps⟩

/-- The example's state with a poll waiting is canonical. -/
theorem stepping_canonical : stepping.Canonical :=
  by constructor <;> decide

theorem test_witness_EveryStepKeepsTablesCanonical : stepping.Canonical ∧ ∃ t, step stepping = .next t :=
  ⟨stepping_canonical, stepping_steps⟩

theorem test_witness_EveryStepKeepsOwnerLists : stepping.OwnerInv ∧ ∃ t, step stepping = .next t := by
  refine ⟨⟨stepping_canonical, by decide, by decide, ?_, ?_⟩, stepping_steps⟩
  · have h : ∀ p ∈ stepping.users, ∀ h ∈ p.2.owned, ∃ j ∈ stepping.jobNamed h, j.owner = p.1 := by decide
    exact h
  · have h : ∀ p ∈ stepping.jobs, ∃ u ∈ stepping.users.fetch p.2.owner, p.2.handle ∈ u.owned := by decide
    exact h

end Sys2Proof.Tests
end

section
/-! READ CLOCK (R171): which requests pass the authority checks of R7 to R9, and what the rule then answers. -/

namespace Sys2Proof.Machine

/-- A role that may issue a kind passes steps 1 to 3 of R9 when the carried tenant is present and every object named
lies within its binding. -/
theorem authorise_present {k : Kind} {q : Request} {bound : List Binding} {s : State}
    (h : k.permission q.role ≠ .no) (ht : s.tenants.has q.tenant = true)
    (hb : bound.all (fun b => b.allows q.tenant) = true) : authorise k q bound s = .ok () := by
  simp [authorise, h, ht, hb]

/-- READ CLOCK names no object, so roles 0 and 1 pass, and role 3 once its tenant is found present (R171). -/
theorem authorise_readClock {q : Request} {s : State}
    (h : q.role = 0 ∨ q.role = 1 ∨ (q.role = 3 ∧ s.tenants.has q.tenant = true)) :
    authorise .readClock q [] s = .ok () := by
  rcases h with h | h | ⟨h, ht⟩
  · exact authorise_yes [] s (by omega) (by rw [h]; decide)
  · exact authorise_yes [] s (by omega) (by rw [h]; decide)
  · exact authorise_present (by rw [h]; decide) ht rfl

/-- Role 2 has no permission for READ CLOCK, and role 3 with an absent tenant fails step 2 of R9. -/
theorem authorise_readClock_refused {q : Request} {s : State}
    (h : q.role = 2 ∨ (q.role = 3 ∧ s.tenants.has q.tenant = false)) :
    authorise .readClock q [] s = .error .notPermitted := by
  rcases h with h | ⟨h, ht⟩
  · exact authorise_no [] s (by rw [h]; rfl)
  · exact authorise_absent [] s (by omega) ht

theorem readClockRule_ok {q : Request} {s : State} (h : authorise .readClock q [] s = .ok ()) :
    readClockRule q s = .ok { state := s, body := .clock s.clock } := by
  simp [readClockRule, h]

theorem readClockRule_error {q : Request} {s : State} {r : Reason} (h : authorise .readClock q [] s = .error r) :
    readClockRule q s = .error r := by
  simp [readClockRule, h]

theorem exec_readClock (s : State) : exec .readClock s = onRequest .readClock readClockRule s := rfl

/-- Settles O11: the request leaving the queue changes neither the tenants nor the clock, so the authority found and the
minute read are those of the state before. -/
theorem readClockGivesMinute : Obligations.ReadClockGivesMinute := by
  intro s q rest turn _
  rw [exec_readClock]
  constructor
  · intro permitted
    exact onRequest_ok turn (readClockRule_ok (s := s.leaving rest) (authorise_readClock permitted))
  · intro unpermitted
    exact onRequest_refused turn (readClockRule_error (authorise_readClock_refused unpermitted))

end Sys2Proof.Machine
end

section
/-! PART INFO (R187), FETCH NOTICE (R184, R186) and SET NOTICE MASK (R185): which requests pass the authority checks of
R7 to R9, and what each rule then does. -/

namespace Sys2Proof.Machine

/-! ### Bodies -/

/-- The request whose turn has come has the body length of its kind (R181). -/
theorem State.Turn.body_length {s : State} {k : Kind} {q : Request} {rest : List Request} (turn : s.Turn k q rest) :
    q.body.length = k.bodyLength := by
  have sized := turn.kind
  simp only [Request.isKind, Bool.and_eq_true, decide_eq_true_eq] at sized
  exact sized.2

theorem State.Turn.body_nil {s : State} {k : Kind} {q : Request} {rest : List Request} (turn : s.Turn k q rest)
    (hk : k.bodyLength = 0) : q.body = [] :=
  List.eq_nil_of_length_eq_zero (turn.body_length.trans hk)

theorem Request.field_first {q : Request} {a : Byte} {bs : List Byte} (h : q.body = a :: bs) :
    q.field 0 1 = a.toNat := by
  simp [Request.field, bytesToNat, h]

theorem Request.field_second {q : Request} {a b : Byte} {bs : List Byte} (h : q.body = a :: b :: bs) :
    q.field 1 1 = b.toNat := by
  simp [Request.field, bytesToNat, h]

/-! ### PART INFO -/

/-- The columns of R7 for roles 2 and 3 leave PART INFO out. -/
theorem permission_partInfo_no {role : Nat} (h : 2 ≤ role) : Kind.partInfo.permission role = .no := by
  match role, h with
  | 2, _ => rfl
  | _ + 3, _ => rfl

theorem authorise_partInfo {q : Request} (s : State) (h : q.role = 0 ∨ q.role = 1) :
    authorise .partInfo q [] s = .ok () := by
  rcases h with h | h
  · exact authorise_yes [] s (by omega) (by rw [h]; decide)
  · exact authorise_yes [] s (by omega) (by rw [h]; decide)

theorem partInfoRule_ok {q : Request} {s : State} (h : authorise .partInfo q [] s = .ok ()) :
    partInfoRule q s =
      .ok { state := s, body := .partInfo 4160 2 [32, 4096, 1024, 96, 512, 384, 64, 48, 64, 8, 4] } := by
  rw [partInfoRule, h]
  rfl

theorem partInfoRule_error {q : Request} {s : State} {r : Reason} (h : authorise .partInfo q [] s = .error r) :
    partInfoRule q s = .error r := by
  simp [partInfoRule, h]

theorem exec_partInfo (s : State) : exec .partInfo s = onRequest .partInfo partInfoRule s := rfl

/-- Settles O10: the role alone decides, and the rule answers with the configured capacities. -/
theorem partInfoGivesCapacities : Obligations.PartInfoGivesCapacities := by
  intro s q rest turn
  rw [exec_partInfo]
  refine ⟨turn.body_nil rfl, ?permitted, ?unpermitted⟩
  case permitted =>
    intro role
    exact onRequest_ok turn (partInfoRule_ok (authorise_partInfo _ role))
  case unpermitted =>
    intro role
    exact onRequest_refused turn (partInfoRule_error (authorise_no [] _ (permission_partInfo_no role)))

/-! ### FETCH NOTICE -/

/-- R7 gives FETCH NOTICE to the roles to which it gives READ CLOCK. -/
theorem permission_fetchNotice (role : Nat) : Kind.fetchNotice.permission role = Kind.readClock.permission role := by
  match role with
  | 0 => rfl
  | 1 => rfl
  | 2 => rfl
  | _ + 3 => rfl

/-- So the two requests, neither of which names an object, pass the authority checks or fail them alike. -/
theorem authorise_fetchNotice (q : Request) (s : State) :
    authorise .fetchNotice q [] s = authorise .readClock q [] s := by
  simp only [authorise, permission_fetchNotice]

/-- A notice is queued: the oldest is returned, and `more` says whether another remains (R186). -/
theorem fetchNoticeRule_cons {q : Request} {s : State} {n : Notice} {ns : List Notice}
    (h : authorise .fetchNotice q [] s = .ok ()) (hn : s.notices = n :: ns) :
    fetchNoticeRule q s =
      .ok { state := { s with notices := ns, lost := false }, body := .fetched (some n) (!ns.isEmpty) s.lost } := by
  simp [fetchNoticeRule, h, hn]

/-- None is queued: the lost flag is returned and cleared all the same (R186). -/
theorem fetchNoticeRule_nil {q : Request} {s : State} (h : authorise .fetchNotice q [] s = .ok ())
    (hn : s.notices = []) :
    fetchNoticeRule q s = .ok { state := { s with lost := false }, body := .fetched none false s.lost } := by
  simp [fetchNoticeRule, h, hn]

theorem fetchNoticeRule_error {q : Request} {s : State} {r : Reason} (h : authorise .fetchNotice q [] s = .error r) :
    fetchNoticeRule q s = .error r := by
  simp [fetchNoticeRule, h]

theorem exec_fetchNotice (s : State) : exec .fetchNotice s = onRequest .fetchNotice fetchNoticeRule s := rfl

/-- Settles O12: the authority is READ CLOCK's, the rule takes the front of the notice queue, and the last clause is
what a full queue does to a notice. -/
theorem fetchNoticeRemovesOldest : Obligations.FetchNoticeRemovesOldest := by
  intro s q rest turn _
  rw [exec_fetchNotice]
  refine ⟨turn.body_nil rfl, ?permitted, ?unpermitted, ?discarded⟩
  case permitted =>
    intro role
    have passes : authorise .fetchNotice q [] (s.leaving rest) = .ok () :=
      (authorise_fetchNotice q _).trans (authorise_readClock role)
    constructor
    · intro n ns queued
      exact onRequest_ok turn (fetchNoticeRule_cons passes queued)
    · intro empty
      exact onRequest_ok turn (fetchNoticeRule_nil passes empty)
  case unpermitted =>
    intro role
    have fails : authorise .fetchNotice q [] (s.leaving rest) = .error .notPermitted :=
      (authorise_fetchNotice q _).trans (authorise_readClock_refused role)
    exact onRequest_refused turn (fetchNoticeRule_error fails)
  case discarded =>
    intro u b enabled full
    rw [State.notify_full enabled full]

/-! ### SET NOTICE MASK -/

/-- The columns of R7 for the roles other than 0 leave SET NOTICE MASK out. -/
theorem permission_setNoticeMask_no {role : Nat} (h : role ≠ 0) : Kind.setNoticeMask.permission role = .no := by
  match role, h with
  | 1, _ => rfl
  | 2, _ => rfl
  | _ + 3, _ => rfl

theorem authorise_setNoticeMask {q : Request} (s : State) (h : q.role = 0) :
    authorise .setNoticeMask q [] s = .ok () :=
  authorise_yes [] s (by omega) (by rw [h]; decide)

/-- A byte of classes, bit by bit (10.7.5). -/
theorem maskOf_toNat (b : Byte) :
    maskOf b.toNat = ⟨b.getLsbD 0, b.getLsbD 1, b.getLsbD 2, b.getLsbD 3, b.getLsbD 4, b.getLsbD 5⟩ := rfl

section
variable {q : Request} {s : State} {set clear : Byte}

theorem setNoticeMaskRule_ok (h : authorise .setNoticeMask q [] s = .ok ()) (hb : q.body = [set, clear])
    (hset : set.toNat < 64) (hclear : clear.toNat < 64) :
    setNoticeMaskRule q s =
      .ok { state := { s with mask := s.mask.write (maskOf set.toNat) (maskOf clear.toNat) }
            body := .masks s.mask (s.mask.write (maskOf set.toNat) (maskOf clear.toNat)) } := by
  simp [setNoticeMaskRule, h, Request.field_first hb, Request.field_second hb, hset, hclear]

/-- Bit 6 or 7 of either byte names no class (R185). -/
theorem setNoticeMaskRule_outOfRange (h : authorise .setNoticeMask q [] s = .ok ()) (hb : q.body = [set, clear])
    (hbits : 64 ≤ set.toNat ∨ 64 ≤ clear.toNat) : setNoticeMaskRule q s = .error .outOfRange := by
  have outside : (decide (set.toNat < 64) && decide (clear.toNat < 64)) = false := by
    rcases hbits with hset | hclear
    · simp [Nat.not_lt.mpr hset]
    · simp [Nat.not_lt.mpr hclear]
  simp [setNoticeMaskRule, h, Request.field_first hb, Request.field_second hb, outside]

theorem setNoticeMaskRule_error {r : Reason} (h : authorise .setNoticeMask q [] s = .error r) :
    setNoticeMaskRule q s = .error r := by
  simp [setNoticeMaskRule, h]

end

theorem exec_setNoticeMask (s : State) : exec .setNoticeMask s = onRequest .setNoticeMask setNoticeMaskRule s := rfl

/-- Settles O13: after the role and the range of both bytes, the mask is written class by class from the bits of the two
bytes, and the last clause is what a disabled class does to a notice. -/
theorem noticeMaskIsWritten : Obligations.NoticeMaskIsWritten := by
  intro s q rest set clear turn body
  rw [exec_setNoticeMask]
  refine ⟨?unpermitted, ?outOfRange, ?accepted, fun _ _ disabled => State.notify_masked disabled⟩
  case unpermitted =>
    intro role
    exact onRequest_refused turn (setNoticeMaskRule_error (authorise_no [] _ (permission_setNoticeMask_no role)))
  case outOfRange =>
    intro role bits
    exact onRequest_refused turn (setNoticeMaskRule_outOfRange (authorise_setNoticeMask _ role) body bits)
  case accepted =>
    intro role hset hclear
    refine ⟨s.mask.write (maskOf set.toNat) (maskOf clear.toNat),
      onRequest_ok turn (setNoticeMaskRule_ok (authorise_setNoticeMask _ role) body hset hclear), ?_⟩
    simp only [maskOf_toNat, Mask.write, and_self]

end Sys2Proof.Machine
end

section
/-! What every request's rule keeps: a rule that accepts leaves a state in which each invariant still holds. -/

namespace Sys2Proof.Machine

/-! ### A rule that accepts has passed each of its checks -/

theorem except_bind_eq_ok {α β ε : Type} {x : Except ε α} {f : α → Except ε β} {b : β} :
    (x >>= f) = .ok b ↔ ∃ a, x = .ok a ∧ f a = .ok b := by
  cases x <;> simp

theorem require_eq_ok {b : Bool} {r : Reason} {u : Unit} : require b r = .ok u ↔ b = true := by
  cases b <;> simp

theorem demand_eq_ok {α : Type} {o : Option α} {r : Reason} {a : α} : demand o r = .ok a ↔ o = some a := by
  cases o <;> simp

/-- What a request that is accepted leaves keeps every invariant. -/
def Rule.Keeps (rule : Rule) : Prop := ∀ q s d, rule q s = .ok d → s.Keeps d.state

theorem State.leaving_kept {s : State} {q : Request} {rest : List Request} (h : s.requests = q :: rest) :
    s.Kept (s.leaving rest) :=
  { requests := by rw [h]; simp only [State.leaving, List.length_cons]; omega }

theorem State.carryOut_keeps {rule : Rule} (h : rule.Keeps) (s : State) (q : Request) : s.Keeps (s.carryOut q rule) := by
  unfold State.carryOut
  split
  case h_1 => exact (State.reply_kept _ _ _).keeps
  case h_2 d hd => exact (h q s d hd).trans (State.reply_kept _ _ _).keeps

theorem State.serve_keeps {rule : Rule} (h : rule.Keeps) (s : State) (mine : Request → Bool) :
    s.Keeps (s.serve mine rule) := by
  unfold State.serve
  split
  · exact .refl s
  · split
    case h_1 => exact .refl s
    case h_2 q rest hq => exact .cond ((State.leaving_kept hq).keeps.trans (State.carryOut_keeps h _ q)) (.refl s)

/-- A rule that leaves the state as it finds it, whatever it answers. -/
def Rule.Reads (rule : Rule) : Prop := ∀ q s d, rule q s = .ok d → d.state = s

theorem Rule.Reads.keeps {rule : Rule} (h : rule.Reads) : rule.Keeps := fun q s d hd => by
  rw [h q s d hd]; exact .refl s

/-! ### Numbers in a body -/

theorem bytesToNat_concat (bs : List Byte) (b : Byte) : bytesToNat (bs ++ [b]) = bytesToNat bs * 256 + b.toNat := by
  simp [bytesToNat]

/-- A number sent in bytes is below 256 to the power of their count (R190). -/
theorem bytesToNat_lt (bs : List Byte) : bytesToNat bs < 256 ^ bs.length := by
  induction bs using List.reverseRecOn with
  | nil => simp [bytesToNat]
  | append_singleton bs b ih =>
    have hb := b.isLt
    rw [bytesToNat_concat, List.length_append, List.length_singleton, Nat.pow_succ]
    omega

theorem Request.field_lt (q : Request) (off len : Nat) : q.field off len < 256 ^ len :=
  calc q.field off len < 256 ^ ((q.body.drop off).take len).length := bytesToNat_lt _
    _ ≤ 256 ^ len := Nat.pow_le_pow_right (by omega) (List.length_take_le _ _)

/-! ### Requests that answer and change nothing -/

theorem getTenantRule_reads : Rule.Reads getTenantRule := fun q s d h => by
  simp only [getTenantRule, except_bind_eq_ok] at h
  obtain ⟨_, _, _, _, _, _, h⟩ := h
  cases h; rfl

theorem getUserRule_reads : Rule.Reads getUserRule := fun q s d h => by
  simp only [getUserRule, except_bind_eq_ok] at h
  obtain ⟨_, _, _, _, _, _, h⟩ := h
  cases h; rfl

theorem findBadgeRule_reads : Rule.Reads findBadgeRule := fun q s d h => by
  simp only [findBadgeRule, except_bind_eq_ok] at h
  obtain ⟨_, _, _, _, _, _, h⟩ := h
  cases h; rfl

theorem getJobRule_reads : Rule.Reads getJobRule := fun q s d h => by
  simp only [getJobRule, except_bind_eq_ok] at h
  obtain ⟨_, _, h⟩ := h
  cases h; rfl

theorem listJobsRule_reads : Rule.Reads listJobsRule := fun q s d h => by
  simp only [listJobsRule, except_bind_eq_ok] at h
  obtain ⟨_, _, _, _, _, _, h⟩ := h
  cases h; rfl

theorem probeReleaseRule_reads : Rule.Reads probeReleaseRule := fun q s d h => by
  simp only [probeReleaseRule, except_bind_eq_ok] at h
  obtain ⟨_, _, _, _, _, _, _, _, h⟩ := h
  cases h; rfl

theorem getStationRule_reads : Rule.Reads getStationRule := fun q s d h => by
  simp only [getStationRule, except_bind_eq_ok] at h
  obtain ⟨_, _, h⟩ := h
  cases h; rfl

theorem getConsumableRule_reads : Rule.Reads getConsumableRule := fun q s d h => by
  simp only [getConsumableRule, except_bind_eq_ok] at h
  obtain ⟨_, _, _, _, _, _, _, _, h⟩ := h
  cases h; rfl

theorem listReordersRule_reads : Rule.Reads listReordersRule := fun q s d h => by
  simp only [listReordersRule, except_bind_eq_ok] at h
  obtain ⟨_, _, _, _, h⟩ := h
  cases h; rfl

theorem listCalloutsRule_reads : Rule.Reads listCalloutsRule := fun q s d h => by
  simp only [listCalloutsRule, except_bind_eq_ok] at h
  obtain ⟨_, _, _, _, h⟩ := h
  cases h; rfl

theorem readClockRule_reads : Rule.Reads readClockRule := fun q s d h => by
  simp only [readClockRule, except_bind_eq_ok] at h
  obtain ⟨_, _, h⟩ := h
  cases h; rfl

theorem readIntervalRule_reads : Rule.Reads readIntervalRule := fun q s d h => by
  simp only [readIntervalRule, except_bind_eq_ok] at h
  obtain ⟨_, _, h⟩ := h
  cases h; rfl

theorem partInfoRule_reads : Rule.Reads partInfoRule := fun q s d h => by
  simp only [partInfoRule, except_bind_eq_ok] at h
  obtain ⟨_, _, h⟩ := h
  cases h; rfl

theorem refuse_reads (r : Reason) : Rule.Reads (fun _ _ => .error r) := fun _ _ _ h => nomatch h

end Sys2Proof.Machine
end

section
/-! What every request's rule keeps, continued: the rules that write. -/

namespace Sys2Proof.Machine

/-! ### Tenants and users -/

theorem tenantOf_used {s : State} (h : ∀ p ∈ s.tenants, p.2.account.used ≤ 2000000000) (n : Nat) :
    (s.tenantOf n).account.used ≤ 2000000000 := by
  unfold State.tenantOf
  cases hf : s.tenants.fetch n with
  | none => decide
  | some t => exact h _ (Table.mem_of_fetch _ hf)

/-- Writing a tenant's record with an account that the part held of it. -/
theorem State.putTenant_kept {s : State} {n : Nat} {t : Tenant} (ht : t.account = (s.tenantOf n).account) :
    s.Kept { s with tenants := s.tenants.put n t } :=
  { usedTenants := fun h => Table.all_put (by rw [ht]; exact tenantOf_used h n) h
    tenants := fun h => Table.sorted_put h _ _ }

theorem putTenantRule_keeps : Rule.Keeps putTenantRule := fun q s d h => by
  simp only [putTenantRule, except_bind_eq_ok] at h
  obtain ⟨_, _, _, _, _, _, _, _, _, _, h⟩ := h
  cases h
  refine (State.putTenant_kept ?_).keeps
  rfl

theorem State.removeTenant_kept (s : State) (n : Nat) : s.Kept (s.removeTenant n) :=
  { usedTenants := fun h p hp => h p (Table.mem_remove hp)
    tenants := fun h => Table.sorted_remove h _
    stations := fun h => Table.sorted_mapRecords h _ }

theorem removeTenantRule_keeps : Rule.Keeps removeTenantRule := fun q s d h => by
  simp only [removeTenantRule, except_bind_eq_ok] at h
  obtain ⟨_, _, _, _, _, _, _, _, h⟩ := h
  cases h
  exact (State.removeTenant_kept _ _).keeps

/-- A new user who owns no job takes an empty record. -/
theorem State.addUser_keeps {s : State} {n : Nat} {u : User} (hn : s.users.Sorted → s.users.fetch n = none)
    (hu : u.account.used ≤ 2000000000) (hc : u.jobCount = 0) (ho : u.owned = []) :
    s.Keeps { s with users := s.users.put n u } := by
  have canon (c : s.Canonical) : State.Canonical { s with users := s.users.put n u } :=
    { c with users := Table.sorted_put c.users _ _ }
  refine ⟨fun h => ⟨h.requests, h.notices, h.commands⟩, fun h => { h with users := Table.all_put hu h.users }, canon,
    fun o => ?_⟩
  refine ⟨canon o.canonical, Table.all_put (by simp [hc, ho]) o.count, Table.all_put (by simp [ho]) o.once,
    Table.all_put (by simp [ho]) o.named, fun p hp => ?_⟩
  obtain ⟨v, hv, hm⟩ := o.listed p hp
  have other : p.2.owner ≠ n := fun e => by simp [e, hn o.canonical.users] at hv
  exact ⟨v, (Table.fetch_put_other _ _ other).trans hv, hm⟩

theorem enrolUserRule_keeps : Rule.Keeps enrolUserRule := fun q s d h => by
  simp only [enrolUserRule, except_bind_eq_ok] at h
  obtain ⟨_, _, _, _, _, _, _, _, _, _, h⟩ := h
  cases h
  exact State.addUser_keeps (fun hs => (Table.firstFree_spec hs 0).2.1) (by simp [UserChange.apply]) rfl rfl

/-- Rewriting a user's record but for its account, job count and owner list. -/
theorem State.putUser_kept {s : State} {n : Nat} {u v : User} (hu : s.users.fetch n = some u)
    (ha : v.account = u.account) (ho : v.owned = u.owned) (hc : v.jobCount = u.jobCount) :
    s.Kept { s with users := s.users.put n v } where
  usedUsers h := Table.all_put (by rw [ha]; exact h _ (Table.mem_of_fetch _ hu)) h
  users hs := by
    have present : ∀ t : Table User, t.Sorted → t.fetch n = some u → ownerLists (t.put n v) = ownerLists t := by
      intro t
      induction t with
      | nil => intro _ h; simp at h
      | cons p t ih =>
        intro hs h
        obtain ⟨k, w⟩ := p
        simp only [Table.Sorted, Table.numbers, List.pairwise_cons] at hs
        by_cases hk : n = k
        · subst hk
          obtain rfl : w = u := by simpa [Table.fetch] using h
          simp [Table.put, ownerLists, ho, hc]
        · have hf : Table.fetch t n = some u := by simpa [Table.fetch, hk] using h
          have later := hs.1 n ((Table.fetch_isSome_iff t n).1 (by simp [hf]))
          have tail := ih hs.2 hf
          simp only [Table.put, if_neg hk, if_neg (show ¬ n < k by omega)]
          exact congrArg ((k, w.owned, w.jobCount) :: ·) tail
    exact present s.users hs hu

theorem amendUserRule_keeps : Rule.Keeps amendUserRule := fun q s d h => by
  simp only [amendUserRule, except_bind_eq_ok, demand_eq_ok] at h
  obtain ⟨_, _, _, _, u, hu, _, _, _, _, _, _, h⟩ := h
  cases h
  refine (State.putUser_kept hu ?_ ?_ ?_).keeps <;> rfl

theorem userStateRule_keeps (k : Kind) (st : UserState) : Rule.Keeps (userStateRule k st) := fun q s d h => by
  simp only [userStateRule, except_bind_eq_ok] at h
  obtain ⟨_, _, _, _, _, _, h⟩ := h
  cases h
  exact (State.user_kept (f := fun u => { u with state := st }) (fun _ => ⟨rfl, rfl⟩) fun _ => id).keeps

theorem State.deleteOfRemoved_keeps (s : State) (h : Nat) : s.Keeps (s.deleteOfRemoved h) := by
  unfold State.deleteOfRemoved
  split
  case h_1 j hj => exact ((State.Kept.refl s).delete (State.stands_of_named hj)).trans (State.notify_kept _ _).keeps
  case h_2 => exact .refl s

/-- Deleting the job that a user's list begins with takes it off the list. -/
theorem State.deleteOfRemoved_head {s : State} (o : s.OwnerInv) {n : Nat} {u : User} (hu : s.users.fetch n = some u)
    {h : Nat} {hs : List Nat} (hl : u.owned = h :: hs) :
    ∃ v, (s.deleteOfRemoved h).users.fetch n = some v ∧ v.owned = hs := by
  obtain ⟨j, hj, hjo⟩ := o.named _ (Table.mem_of_fetch _ hu) h (by simp [hl])
  have hh := o.canonical.handle_of_named hj
  refine ⟨{ u with owned := u.owned.erase h, jobCount := u.jobCount - 1 }, ?_, by simp [hl]⟩
  simp only [State.deleteOfRemoved, hj, State.notify_users]
  show Table.fetch (s.users.update j.owner _) n = _
  rw [hjo, Table.fetch_update_same, hu, hh]; rfl

/-- Deleting every job that a user's list names leaves the list empty. -/
theorem State.deleteOfRemoved_all {s : State} (o : s.OwnerInv) {n : Nat} {u : User} (hu : s.users.fetch n = some u) :
    ∃ v, (u.owned.foldl State.deleteOfRemoved s).users.fetch n = some v ∧ v.owned = [] := by
  generalize hl : u.owned = hs
  induction hs generalizing s u with
  | nil => exact ⟨u, hu, hl⟩
  | cons h hs ih =>
    obtain ⟨v, hv, hvo⟩ := State.deleteOfRemoved_head o hu hl
    exact ih ((State.deleteOfRemoved_keeps s h).owner o) hv hvo

/-- A user who is found to own no job may leave the table. -/
theorem State.Keeps.removeUser {s t : State} (h : s.Keeps t) {n : Nat}
    (hn : s.OwnerInv → ∃ u, t.users.fetch n = some u ∧ u.owned = []) :
    s.Keeps { t with users := t.users.remove n } where
  queue q := by
    obtain ⟨requests, notices, commands⟩ := h.queue q
    exact ⟨requests, notices, commands⟩
  count c := { h.count c with users := fun p hp => (h.count c).users p (Table.mem_remove hp) }
  canonical c := { h.canonical c with users := Table.sorted_remove (h.canonical c).users _ }
  owner o := by
    obtain ⟨canonical, count, once, named, listed⟩ := h.owner o
    refine ⟨{ canonical with users := Table.sorted_remove canonical.users _ }, fun p hp => count p (Table.mem_remove hp),
      fun p hp => once p (Table.mem_remove hp), fun p hp => named p (Table.mem_remove hp), fun p hp => ?_⟩
    obtain ⟨v, hv, hm⟩ := listed p hp
    obtain ⟨u, hu, hno⟩ := hn o
    have other : p.2.owner ≠ n := fun e => by
      rw [e, hu] at hv; cases hv; simp [hno] at hm
    exact ⟨v, (Table.fetch_remove_other _ other).trans hv, hm⟩

theorem removeUserRule_keeps : Rule.Keeps removeUserRule := fun q s d h => by
  simp only [removeUserRule, except_bind_eq_ok, demand_eq_ok] at h
  obtain ⟨_, _, _, _, u, hu, _, _, h⟩ := h
  cases h
  exact (State.Keeps.fold State.deleteOfRemoved_keeps _ _).removeUser fun o => State.deleteOfRemoved_all o hu

/-! ### Accounts and settings -/

theorem adjustAccountRule_keeps : Rule.Keeps adjustAccountRule := fun q s d h => by
  simp only [adjustAccountRule, except_bind_eq_ok] at h
  obtain ⟨_, _, _, _, h⟩ := h
  split at h
  · obtain ⟨u, _, h⟩ := except_bind_eq_ok.1 h
    cases h
    exact (State.checkUser_kept _ _ _ _ (Account.adjust_used _ _)).keeps
  · obtain ⟨t, _, h⟩ := except_bind_eq_ok.1 h
    cases h
    exact (State.checkTenant_kept _ _ _ _ (Account.adjust_used _ _)).keeps

theorem setRatesRule_keeps : Rule.Keeps setRatesRule := fun q s d h => by
  simp only [setRatesRule, except_bind_eq_ok] at h
  obtain ⟨_, _, _, _, h⟩ := h
  cases h
  exact State.Kept.keeps {}

theorem setPartitionsRule_keeps : Rule.Keeps setPartitionsRule := fun q s d h => by
  simp only [setPartitionsRule, except_bind_eq_ok] at h
  obtain ⟨_, _, _, _, _, _, h⟩ := h
  cases h
  exact State.Kept.keeps {}

theorem setReleaseTimingRule_keeps : Rule.Keeps setReleaseTimingRule := fun q s d h => by
  simp only [setReleaseTimingRule, except_bind_eq_ok] at h
  obtain ⟨_, _, _, _, h⟩ := h
  cases h
  exact State.Kept.keeps {}

theorem setCalloutPolicyRule_keeps : Rule.Keeps setCalloutPolicyRule := fun q s d h => by
  simp only [setCalloutPolicyRule, except_bind_eq_ok] at h
  obtain ⟨_, _, _, _, h⟩ := h
  cases h
  exact State.Kept.keeps {}

/-! ### Jobs -/

theorem namedJob_stands {k : Kind} {q : Request} {s : State} {j : Job} (h : namedJob k q s = .ok j) : s.Stands j := by
  simp only [namedJob, except_bind_eq_ok, demand_eq_ok] at h
  obtain ⟨_, _, _, _, h⟩ := h
  exact State.stands_of_named h

theorem generation_lt {s : State} (h : ∀ p ∈ s.generations, p.2 < 256) (slot : Nat) : s.generation slot < 256 := by
  unfold State.generation
  cases hf : s.generations.fetch slot with
  | none => decide
  | some g => exact h _ (Table.mem_of_fetch _ hf)

/-- A job placed in a free slot, under the handle that the slot and its generation make. -/
theorem State.placeJob_canonical {s : State} (c : s.Canonical) {slot : Nat} {j : Job}
    (hh : j.handle = slot * 256 + s.generation slot) : (s.placeJob slot j).Canonical :=
  { c with
    jobs := Table.sorted_put c.jobs _ _
    users := Table.sorted_update c.users _ _
    handles := Table.all_put (P := fun p : Nat × Job => p.2.handle / 256 = p.1 ∧ p.2.handle % 256 = s.generation p.1)
      (by have := generation_lt c.slots slot; dsimp only; omega) c.handles }

@[simp] theorem State.placeJob_jobs (s : State) (slot : Nat) (j : Job) :
    (s.placeJob slot j).jobs = s.jobs.put slot j := rfl

@[simp] theorem State.placeJob_generation (s : State) (slot : Nat) (j : Job) (n : Nat) :
    (s.placeJob slot j).generation n = s.generation n := rfl

theorem State.placeJob_jobNamed {s : State} {slot : Nat} {j : Job} (h : Nat) :
    (s.placeJob slot j).jobNamed h =
      if h / 256 = slot then (if s.generation slot = h % 256 then some j else none) else s.jobNamed h := by
  by_cases hs : h / 256 = slot
  · simp [State.jobNamed, hs]
  · unfold State.jobNamed
    rw [if_neg hs, State.placeJob_jobs, Table.fetch_put_other _ _ hs]; rfl

/-- Placing a job in a free slot enters it in its owner's list. -/
theorem State.placeJob_owner {s : State} (o : s.OwnerInv) {slot : Nat} {j : Job} {u : User}
    (hh : j.handle = slot * 256 + s.generation slot) (hu : s.users.fetch j.owner = some u)
    (hfree : s.jobs.has slot = false) : (s.placeJob slot j).OwnerInv := by
  have c := o.canonical
  have hg := generation_lt c.slots slot
  have unoccupied : s.jobs.fetch slot = none := by simpa [Table.has] using hfree
  have elsewhere {h : Nat} {i : Job} (hi : s.jobNamed h = some i) : h / 256 ≠ slot := fun e => by
    have := (State.jobNamed_parts hi).1
    rw [e, unoccupied] at this; cases this
  have new : j.handle ∉ u.owned := fun hm => by
    obtain ⟨i, hi, _⟩ := o.named _ (Table.mem_of_fetch _ hu) _ hm
    exact elsewhere hi (by omega)
  have changed {p : Nat × User} (hp : p ∈ (s.placeJob slot j).users) := Table.mem_update c.users hp
  refine ⟨State.placeJob_canonical c hh, fun p hp => ?count, fun p hp => ?once, fun p hp h hm => ?named, ?listed⟩
  case count =>
    obtain ⟨v, hv, he⟩ := changed hp
    have := o.count _ (Table.mem_of_fetch _ hv)
    rw [he]; split <;> simpa using this
  case once =>
    obtain ⟨v, hv, he⟩ := changed hp
    have := o.once _ (Table.mem_of_fetch _ hv)
    rw [he]; split
    · rename_i hn
      rw [hn, hu] at hv; cases hv
      exact List.Nodup.append this (List.nodup_singleton _) (by simpa using new)
    · exact this
  case named =>
    obtain ⟨v, hv, he⟩ := changed hp
    have old (hm : h ∈ v.owned) : ∃ i, (s.placeJob slot j).jobNamed h = some i ∧ i.owner = p.1 := by
      obtain ⟨i, hi, hio⟩ := o.named _ (Table.mem_of_fetch _ hv) _ hm
      exact ⟨i, by rw [State.placeJob_jobNamed, if_neg (elsewhere hi)]; exact hi, hio⟩
    rw [he] at hm; split at hm
    · rename_i hn
      rcases List.mem_append.1 hm with hm | hm
      · exact old hm
      · obtain rfl := List.mem_singleton.1 hm
        exact ⟨j, by rw [State.placeJob_jobNamed, if_pos (by omega), if_pos (by omega)], hn.symm⟩
    · exact old hm
  case listed =>
    have lists (n : Nat) {v : User} (hv : s.users.fetch n = some v) :
        ∃ w, (s.placeJob slot j).users.fetch n = some w ∧ (∀ h ∈ v.owned, h ∈ w.owned) ∧
          (n = j.owner → j.handle ∈ w.owned) := by
      show ∃ w, Table.fetch (s.users.update j.owner _) n = some w ∧ _
      rw [Table.fetch_update, hv]
      split
      · exact ⟨_, rfl, fun h hm => List.mem_append_left _ hm, fun _ => by simp⟩
      · exact ⟨v, rfl, fun _ => id, fun e => absurd e ‹_›⟩
    refine Table.all_put (P := fun p : Nat × Job => ∃ u, (s.placeJob slot j).users.fetch p.2.owner = some u ∧ p.2.handle ∈ u.owned)
      ?_ fun p hp => ?_
    · obtain ⟨w, hw, _, hm⟩ := lists _ hu
      exact ⟨w, hw, hm rfl⟩
    · obtain ⟨v, hv, hm⟩ := o.listed p hp
      obtain ⟨w, hw, hall, _⟩ := lists _ hv
      exact ⟨w, hw, hall _ hm⟩

theorem State.placeJob_keeps {s : State} {slot : Nat} {j : Job} {u : User}
    (hh : j.handle = slot * 256 + s.generation slot) (hu : s.users.fetch j.owner = some u)
    (hfree : s.jobs.has slot = false) : s.Keeps (s.placeJob slot j) where
  queue q := ⟨q.requests, q.notices, q.commands⟩
  count c := { c with users := Table.all_update (fun _ _ => id) c.users }
  canonical c := State.placeJob_canonical c hh
  owner o := State.placeJob_owner o hh hu hfree

/-- A placement is a free slot (R53). -/
theorem State.placement_free {s : State} {n slot : Nat} {u : User} (h : s.placement n u = some slot) :
    s.jobs.has slot = false := by
  simpa using List.find?_some h

theorem holdJobRule_keeps : Rule.Keeps holdJobRule := fun q s d h => by
  simp only [holdJobRule, except_bind_eq_ok, demand_eq_ok] at h
  obtain ⟨_, _, _, _, u, hu, _, _, slot, hslot, h⟩ := h
  cases h
  exact State.placeJob_keeps rfl hu (State.placement_free hslot)

theorem State.commitJob_kept (s : State) (j : Job) : s.Kept (s.commitJob j) := by
  unfold State.commitJob
  split
  · exact State.updateJob_kept _ _ fun _ => ⟨rfl, rfl⟩
  · split
    · exact .refl s
    · split
      · exact ((State.updateJob_kept _ _ (f := fun j => { j with committed := true }) fun _ => ⟨rfl, rfl⟩).trans
          (State.updateEntry_kept _ _ _ _)).trans (State.sendCheck_kept _ _)
      · exact .refl s
  · exact .refl s
  · exact .refl s

theorem commitSpoolRule_keeps : Rule.Keeps commitSpoolRule := fun q s d h => by
  simp only [commitSpoolRule, except_bind_eq_ok] at h
  obtain ⟨j, _, h⟩ := h
  cases h
  exact (State.commitJob_kept _ _).keeps

theorem State.Kept.takeOut {s t : State} (h : s.Kept t) {j : Job} (hj : s.Stands j) (b : NoticeBody) :
    s.Keeps (t.takeOut j b) := by
  unfold State.takeOut
  split
  · exact ((((h.trans (State.removeEntry_kept _ _ _)).trans (State.releaseReservation_kept _ _)).delete hj).trans
      (State.notify_kept _ _).keeps).trans (State.sendCheck_kept _ _).keeps
  · exact (h.delete hj).trans (State.notify_kept _ _).keeps

theorem cancelJobRule_keeps : Rule.Keeps cancelJobRule := fun q s d h => by
  simp only [cancelJobRule, except_bind_eq_ok] at h
  obtain ⟨j, hj, h⟩ := h
  split at h
  · cases h; exact .refl s
  · split at h
    · cases h
      exact ((State.updateJob_kept _ _ (f := fun j => { j with cancelRequested := true }) fun _ => ⟨rfl, rfl⟩).trans
        (State.withdraw_kept _ _ _)).keeps
    · cases h
      exact (State.Kept.refl s).takeOut (namedJob_stands hj) _

theorem spoolFaultRule_keeps : Rule.Keeps spoolFaultRule := fun q s d h => by
  simp only [spoolFaultRule, except_bind_eq_ok] at h
  obtain ⟨j, hj, h⟩ := h
  cases h
  exact (State.Kept.cond (State.withdraw_kept s _ j) (.refl s)).takeOut (namedJob_stands hj) _

end Sys2Proof.Machine
end

section
/-! What every step keeps: the rules of the directory, the planner, the callout manager, the clock and the host port,
then every command of the table, and with it the four invariants (O56 to O59). -/

namespace Sys2Proof.Machine

/-! ### Stations and risers -/

theorem State.enterState_kept (s : State) (st : Nat) (old new : StationState) : s.Kept (s.enterState st old new) :=
  (State.updateStation_kept _ _ _).trans (State.notify_kept _ _)

theorem State.admitAs_keeps (s : State) (st : Nat) (x : Station) : s.Keeps (s.admitAs st x) :=
  (((State.putStation_kept s st x).trans (State.enterState_kept _ _ _ _)).trans
    (State.startDelays_kept _ _)).keeps.trans (State.handOver_keeps _ _)

theorem admitStationRule_keeps : Rule.Keeps admitStationRule := fun q s d h => by
  simp only [admitStationRule, except_bind_eq_ok] at h
  obtain ⟨_, _, _, _, _, _, _, _, _, _, _, _, h⟩ := h
  cases h
  exact State.admitAs_keeps _ _ _

theorem parkStationRule_keeps : Rule.Keeps parkStationRule := fun q s d h => by
  simp only [parkStationRule, except_bind_eq_ok] at h
  obtain ⟨p, _, _, _, h⟩ := h
  split at h
  · cases h; exact .refl s
  · obtain ⟨_, _, h⟩ := except_bind_eq_ok.1 h
    cases h
    exact (State.enterState_kept _ _ _ _).keeps.trans (State.returnWaiting_keeps _ _ _ _)

theorem unparkStationRule_keeps : Rule.Keeps unparkStationRule := fun q s d h => by
  simp only [unparkStationRule, except_bind_eq_ok] at h
  obtain ⟨p, _, _, _, h⟩ := h
  split at h
  · cases h
    exact (State.enterState_kept _ _ _ _).keeps.trans (State.handOver_keeps _ _)
  · cases h; exact .refl s

theorem State.amendStation_keeps (s : State) (st : Nat) (x x' : Station) : s.Keeps (s.amendStation st x x') :=
  (State.putStation_kept s st x').keeps.trans (State.capabilitiesChanged_keeps _ _ _ _)

theorem setStationRule_keeps : Rule.Keeps setStationRule := fun q s d h => by
  simp only [setStationRule, except_bind_eq_ok] at h
  obtain ⟨_, _, _, _, _, _, _, _, _, _, _, _, h⟩ := h
  cases h
  exact State.amendStation_keeps _ _ _ _

theorem State.dropFaultsOf_kept (s : State) (st : Nat) : s.Kept (s.dropFaultsOf st) :=
  State.Kept.trans (t := { s with
      faults := s.faults.keep (fun _ f => f.station ≠ st)
      pendingFaults := s.pendingFaults.filter (fun p => p.1 ≠ st)
      callouts := s.callouts.keep (fun _ x => x.station ≠ st) })
    { faults := fun h => Table.sorted_keep h _
      classes := fun h p hp => h p (Table.mem_keep hp)
      callouts := fun h => Table.sorted_keep h _ }
    (State.notifyAll_kept _ _)

theorem State.dropSuppliesOf_kept (s : State) (st : Nat) : s.Kept (s.dropSuppliesOf st) :=
  (State.cancelReorders_kept _ _).trans (State.removeConsumables_kept _ _ _)

theorem State.dropNeighbour_kept (s : State) (st : Nat) : s.Kept (s.dropNeighbour st) :=
  { stations := fun h => Table.sorted_mapRecords h _ }

theorem State.emptyPlace_kept (s : State) (st : Nat) (old : StationState) : s.Kept (s.emptyPlace st old) :=
  State.Kept.trans (t := { s with stations := s.stations.remove st, links := s.links.remove st })
    { stations := fun h => Table.sorted_remove h _
      links := fun h => Table.sorted_remove h _
      commands := fun h p hp => h p (Table.mem_remove hp) }
    ((State.updateRiser_kept _ _ _).trans (State.notify_kept _ _))

theorem State.retire_kept (s : State) (st : Nat) (x : Station) : s.Kept (s.retire st x) :=
  ((((State.dropFaultsOf_kept s st).trans (State.dropSuppliesOf_kept _ _)).trans (State.dropNeighbour_kept _ _)).trans
    (State.emptyPlace_kept _ _ _)).trans (State.servePendingTimes_kept _ _)

theorem retireStationRule_keeps : Rule.Keeps retireStationRule := fun q s d h => by
  simp only [retireStationRule, except_bind_eq_ok] at h
  obtain ⟨p, _, _, _, h⟩ := h
  cases h
  exact (State.retire_kept _ _ _).keeps

theorem sweepRiserRule_keeps : Rule.Keeps sweepRiserRule := fun q s d h => by
  simp only [sweepRiserRule, except_bind_eq_ok] at h
  obtain ⟨_, _, _, _, _, _, h⟩ := h
  split at h
  · cases h; exact (State.notify_kept _ _).keeps
  · cases h; exact State.Kept.keeps {}

theorem State.abortSweep_kept (s : State) (r : Nat) : s.Kept (s.abortSweep r) := by
  unfold State.abortSweep
  split
  · exact (State.updateRiser_kept _ _ _).trans (State.notify_kept _ _)
  · exact .refl s

/-- A link record whose lists are empty meets its limits. -/
theorem Link.empty_inv {l : Link} (hc : l.commands = []) (hh : l.held = []) : l.inv :=
  ⟨by simp [hc], by simp [hc], by simp [hh]⟩

theorem State.resetLinks_kept (s : State) (r : Nat) : s.Kept (s.resetLinks r) :=
  { links := fun h => Table.sorted_mapRecords h _
    commands := Table.all_mapRecords (P := fun p : Nat × Link => p.2.inv) fun st l h => by
      dsimp only
      split
      · exact Link.empty_inv rfl rfl
      · exact h }

theorem State.resetRiser_kept (s : State) (r burst : Nat) : s.Kept (s.resetRiser r burst) :=
  ((State.abortSweep_kept s r).trans (State.resetLinks_kept _ _)).trans (State.updateRiser_kept _ _ _)

theorem linkResetRule_keeps : Rule.Keeps linkResetRule := fun q s d h => by
  simp only [linkResetRule, except_bind_eq_ok] at h
  obtain ⟨_, _, _, _, h⟩ := h
  cases h
  exact (State.resetRiser_kept _ _ _).keeps

/-! ### Reorders and callouts -/

theorem State.approve_kept (s : State) (r : Reorder) : s.Kept (s.approve r) :=
  ((State.updateReorder_kept _ _ _).trans (State.setSuppliesUsed_kept _ _ _)).trans (State.notify_kept _ _)

theorem State.raiseAllowance_kept (s : State) (t : Nat) : s.Kept (s.raiseAllowance t) :=
  State.tenant_kept fun _ => id

theorem approveReorderRule_keeps : Rule.Keeps approveReorderRule := fun q s d h => by
  simp only [approveReorderRule, except_bind_eq_ok] at h
  obtain ⟨r, _, _, _, h⟩ := h
  split at h
  · cases h; exact (State.approve_kept _ _).keeps
  · obtain ⟨_, _, h⟩ := except_bind_eq_ok.1 h
    cases h
    exact ((State.raiseAllowance_kept _ _).trans (State.approve_kept _ _)).keeps

theorem placeReorderRule_keeps : Rule.Keeps placeReorderRule := fun q s d h => by
  simp only [placeReorderRule, except_bind_eq_ok] at h
  obtain ⟨r, _, _, _, h⟩ := h
  cases h
  exact (State.updateReorder_kept _ _ _).keeps

theorem cancelReorderRule_keeps : Rule.Keeps cancelReorderRule := fun q s d h => by
  simp only [cancelReorderRule, except_bind_eq_ok] at h
  obtain ⟨r, _, h⟩ := h
  cases h
  exact (State.cancelOne_kept _ _).keeps

theorem ackCalloutRule_keeps : Rule.Keeps ackCalloutRule := fun q s d h => by
  simp only [ackCalloutRule, except_bind_eq_ok] at h
  obtain ⟨p, _, h⟩ := h
  split at h
  · cases h
  · cases h; exact .refl s
  all_goals cases h; exact (State.putCallout_kept _ _ _).keeps

theorem State.closeCallout_kept (s : State) (n : Nat) (x : Callout) : s.Kept (s.closeCallout n x) :=
  State.Kept.trans (t := { s with callouts := s.callouts.remove n })
    { callouts := fun h => Table.sorted_remove h _ }
    ((State.notify_kept _ _).trans (State.servePending_kept _))

theorem closeCalloutRule_keeps : Rule.Keeps closeCalloutRule := fun q s d h => by
  simp only [closeCalloutRule, except_bind_eq_ok] at h
  obtain ⟨p, _, _, _, h⟩ := h
  cases h
  exact (State.closeCallout_kept _ _ _).keeps

/-! ### The clock -/

theorem State.writeClock_kept (s : State) {v : Nat} (h : v ≤ 4294967295) : s.Kept { s with clock := v } :=
  { clock := fun _ => h }

theorem State.setClock_keeps (s : State) {v : Nat} (h : v ≤ 4294967295) : s.Keeps (s.setClock v) :=
  .cond ((State.writeClock_kept s h).keeps.trans (State.allFallDue_keeps _)) (State.writeClock_kept s h).keeps

theorem setClockRule_keeps : Rule.Keeps setClockRule := fun q s d h => by
  simp only [setClockRule, except_bind_eq_ok] at h
  obtain ⟨_, _, h⟩ := h
  cases h
  exact State.setClock_keeps _ (by have := q.field_lt 0 4; omega)

theorem setIntervalRule_keeps : Rule.Keeps setIntervalRule := fun q s d h => by
  simp only [setIntervalRule, except_bind_eq_ok] at h
  obtain ⟨_, _, _, _, h⟩ := h
  cases h
  exact State.Kept.keeps { counters := fun c => c.write _ ⟨Nat.le_refl _, Iff.rfl⟩ }

theorem Counter.minute_inv {c : Counter} (h : c.inv) : c.minute.inv := by
  obtain ⟨below, stops⟩ := h
  unfold Counter.minute
  split
  case isTrue runs =>
    simp only [Counter.countsMinutes, Bool.and_eq_true, decide_eq_true_eq] at runs
    constructor
    · dsimp only; split <;> omega
    · dsimp only; split <;> omega
  case isFalse => exact ⟨below, stops⟩

theorem State.markMinute_kept (s : State) : s.Kept s.markMinute :=
  { clock := fun _ => Nat.min_le_right _ _
    counters := fun c =>
      ⟨Counter.minute_inv c.c0, Counter.minute_inv c.c1, Counter.minute_inv c.c2, Counter.minute_inv c.c3⟩ }

theorem State.takeExpiry_kept (s : State) (n : Nat) : s.Kept (s.takeExpiry n) := by
  unfold State.takeExpiry
  split
  case h_1 e _ => exact State.Kept.trans (t := { s with expiries := s.expiries.erase e }) {} (State.expire_kept _ _)
  case h_2 => exact .refl s

/-! ### The host port, power and the restarts -/

theorem fetchNoticeRule_keeps : Rule.Keeps fetchNoticeRule := fun q s d h => by
  simp only [fetchNoticeRule, except_bind_eq_ok] at h
  obtain ⟨_, _, h⟩ := h
  cases h
  exact State.Kept.keeps { notices := fun h => by simp only [List.length_tail]; omega }

theorem setNoticeMaskRule_keeps : Rule.Keeps setNoticeMaskRule := fun q s d h => by
  simp only [setNoticeMaskRule, except_bind_eq_ok] at h
  obtain ⟨_, _, _, _, h⟩ := h
  cases h
  exact State.Kept.keeps {}

theorem State.acceptFrame_kept (s : State) (q : Request) : s.Kept (s.acceptFrame q) := by
  unfold State.acceptFrame
  split
  case isTrue room =>
    exact { requests := fun _ => by simp only [List.length_append, List.length_singleton]; exact room }
  case isFalse => exact {}

theorem State.receive_kept (s : State) (bytes : List Byte) : s.Kept (s.receive bytes) :=
  State.Kept.trans (t := { s with rx := (hunt (s.rx ++ bytes).length (s.rx ++ bytes)).2 }) {}
    (State.Kept.fold State.acceptFrame_kept _ _)

theorem reset_queueInv : State.reset.QueueInv := ⟨by decide, by decide, fun _ hp => nomatch hp⟩

theorem Counter.inv_of_full {c : Counter} (h : c.count = c.preload) : c.inv := by
  unfold Counter.inv; omega

theorem reset_countInv : State.reset.CountInv :=
  ⟨by decide, Counter.inv_of_full rfl, Counter.inv_of_full rfl, Counter.inv_of_full rfl, Counter.inv_of_full rfl,
    by decide, by decide⟩

theorem reset_canonical : State.reset.Canonical := by constructor <;> decide

theorem reset_ownerInv : State.reset.OwnerInv :=
  ⟨reset_canonical, by decide, by decide, fun _ hp => (nomatch hp), fun _ hp => (nomatch hp)⟩

/-- The two power commands leave the power-on value of every field that an invariant reads. -/
theorem State.powerUp_keeps (s : State) (straps : BitVec 3) (b : Bool) : s.Keeps (s.powerUp straps b) where
  queue _ := ⟨reset_queueInv.requests, reset_queueInv.notices, reset_queueInv.commands⟩
  count _ := { reset_countInv with }
  canonical _ := { reset_canonical with }
  owner _ := { reset_ownerInv with canonical := { reset_canonical with } }

theorem State.restartAll_keeps (s : State) : s.Keeps s.restartAll where
  queue _ := ⟨reset_queueInv.requests, reset_queueInv.notices, reset_queueInv.commands⟩
  count _ := { reset_countInv with }
  canonical _ := { reset_canonical with }
  owner _ := { reset_ownerInv with canonical := { reset_canonical with } }

theorem restartAllRule_keeps : Rule.Keeps restartAllRule := fun q s d h => by
  simp only [restartAllRule, except_bind_eq_ok] at h
  obtain ⟨_, _, _, _, h⟩ := h
  cases h
  exact State.restartAll_keeps _

theorem Table.mem_mapRecords {α : Type} {f : Nat → α → α} {t : Table α} {p : Nat × α} (h : p ∈ t.mapRecords f) :
    ∃ v, (p.1, v) ∈ t ∧ p.2 = f p.1 v := by
  induction t with
  | nil => cases h
  | cons q t ih =>
    obtain ⟨k, v⟩ := q
    rcases List.mem_cons.1 h with rfl | h
    · exact ⟨v, List.mem_cons_self, rfl⟩
    · obtain ⟨w, hw, he⟩ := ih h
      exact ⟨w, List.mem_cons_of_mem _ hw, he⟩

/-- One slot's generation advances (R65). -/
def State.advanceSlot (s : State) (slot : Nat) : State := s.setGeneration slot ((s.generation slot + 1) % 256)

theorem State.advanceGenerations_eq (s : State) : s.advanceGenerations = s.jobs.numbers.foldl State.advanceSlot s := rfl

/-- Advancing generations changes the generations alone. -/
theorem State.advanceSlots_frame (slots : List Nat) (s : State) :
    slots.foldl State.advanceSlot s = { s with generations := (slots.foldl State.advanceSlot s).generations } := by
  induction slots generalizing s with
  | nil => rfl
  | cons n slots ih => rw [List.foldl_cons, ih (s.advanceSlot n)]; rfl

theorem State.advanceSlots_sorted (slots : List Nat) {s : State} (h : s.generations.Sorted) :
    (slots.foldl State.advanceSlot s).generations.Sorted := by
  induction slots generalizing s with
  | nil => exact h
  | cons n slots ih => exact ih (s := s.advanceSlot n) (State.setGeneration_sorted h)

theorem State.advanceSlots_lt (slots : List Nat) {s : State} (h : ∀ p ∈ s.generations, p.2 < 256) :
    ∀ p ∈ (slots.foldl State.advanceSlot s).generations, p.2 < 256 := by
  induction slots generalizing s with
  | nil => exact h
  | cons n slots ih => exact ih (s := s.advanceSlot n) (State.setGeneration_slots (Nat.mod_lt _ (by omega)) h)

/-- What RESTART JOBS leaves, field by field. -/
theorem State.restartJobs_eq (s : State) :
    s.restartJobs = { s with
      generations := s.advanceGenerations.generations
      jobs := []
      users := s.users.mapRecords (fun _ u => u.afterJobs)
      tenants := s.tenants.mapRecords (fun _ t => t.afterJobs)
      stations := s.stations.mapRecords (fun _ x => { x with queue := [] })
      links := s.links.mapRecords (fun _ l => l.afterJobs)
      risers := ⟨s.risers.q0.afterJobs, s.risers.q1.afterJobs, s.risers.q2.afterJobs, s.risers.q3.afterJobs⟩ } := by
  unfold State.restartJobs
  rw [State.advanceGenerations_eq, State.advanceSlots_frame]

theorem State.restartJobs_canonical {s : State} (c : s.Canonical) : s.restartJobs.Canonical := by
  rw [State.restartJobs_eq]
  exact
    { c with
      generations := State.advanceSlots_sorted _ c.generations
      slots := State.advanceSlots_lt _ c.slots
      jobs := Table.sorted_nil
      handles := fun _ hp => nomatch hp
      users := Table.sorted_mapRecords c.users _
      tenants := Table.sorted_mapRecords c.tenants _
      stations := Table.sorted_mapRecords c.stations _
      links := Table.sorted_mapRecords c.links _ }

theorem State.restartJobs_keeps (s : State) : s.Keeps s.restartJobs where
  queue h := by
    rw [State.restartJobs_eq]
    exact ⟨h.requests, h.notices, Table.all_mapRecords (fun _ _ _ => Link.empty_inv rfl rfl) h.commands⟩
  count h := by
    rw [State.restartJobs_eq]
    exact { h with
      users := Table.all_mapRecords (fun _ _ => id) h.users
      tenants := Table.all_mapRecords (fun _ _ => id) h.tenants }
  canonical c := State.restartJobs_canonical c
  owner o := by
    have canonical := State.restartJobs_canonical o.canonical
    rw [State.restartJobs_eq] at canonical ⊢
    have idle {p : Nat × User} (hp : p ∈ s.users.mapRecords (fun _ u => u.afterJobs)) :
        p.2.owned = [] ∧ p.2.jobCount = 0 := by
      obtain ⟨v, _, he⟩ := Table.mem_mapRecords hp
      rw [he]; exact ⟨rfl, rfl⟩
    refine ⟨canonical, fun p hp => ?_, fun p hp => ?_, fun p hp h hm => ?_, fun _ hp => (nomatch hp)⟩
    · rw [(idle hp).1, (idle hp).2]; rfl
    · rw [(idle hp).1]; exact List.nodup_nil
    · rw [(idle hp).1] at hm; cases hm

theorem restartJobsRule_keeps : Rule.Keeps restartJobsRule := fun q s d h => by
  simp only [restartJobsRule, except_bind_eq_ok] at h
  obtain ⟨_, _, _, _, h⟩ := h
  cases h
  exact State.restartJobs_keeps _

end Sys2Proof.Machine
end

section
/-! What every step keeps: every command of the table keeps the four invariants, and so does a step (O56 to O59). -/

namespace Sys2Proof.Machine

/-! ### The risers -/

theorem State.whileRunning_keeps {f : State → State} (h : ∀ s : State, s.Keeps (f s)) (s : State) :
    s.Keeps (s.whileRunning f) := .cond (.refl s) (h s)

theorem State.pollEnds_keeps (s : State) (r : Nat) {outcome : AwaitedPoll → State} (h : ∀ p, s.Keeps (outcome p)) :
    s.Keeps (s.pollEnds r outcome) := by
  unfold State.pollEnds
  split
  · exact .refl s
  · exact .cond (State.endVisit_kept _ _ _).keeps (h _)

theorem State.missEnds_keeps (s : State) (r : Nat) : s.Keeps (s.missEnds r) :=
  State.pollEnds_keeps s r fun _ => .cond (State.trialOutcome_kept _ _ _ _).keeps (State.regularMiss_keeps _ _ _)

theorem State.replyArrives_keeps (s : State) (h : ReplyHeader) (ev : LinkEvent) : s.Keeps (s.replyArrives h ev) :=
  State.pollEnds_keeps s _ fun _ => .cond (State.missEnds_keeps _ _)
    (.cond (State.trialOutcome_kept _ _ _ _).keeps (State.goodReply_keeps _ _ _ _ _))

theorem State.trial_keeps (s : State) (r : Nat) (reply : TrialReply) : s.Keeps (s.trial r reply) := by
  have polled : s.Keeps (if (s.risers.item r).awaited.isSome then s else s.nextPoll r) :=
    .cond (.refl s) (State.nextPoll_kept s r).keeps
  simp only [State.trial]
  generalize (if (s.risers.item r).awaited.isSome then s else s.nextPoll r) = s' at polled ⊢
  split
  · exact .cond (polled.trans (State.pollEnds_keeps _ r fun _ => (State.trialOutcome_kept _ _ _ _).keeps)) (.refl s)
  · exact .refl s

/-! ### Commands -/

/-- A command of one of the blocks that run while RESET is not held. -/
theorem running_keeps {f : State → State} (h : ∀ s : State, s.Keeps (f s)) {s t : State}
    (ht : (.next (s.whileRunning f) : Host.Outcome State Fault Refusal) = .next t) : s.Keeps t := by
  cases ht; exact State.whileRunning_keeps h s

theorem onReply_keeps {h : ReplyHeader} {ev : LinkEvent} {s t : State} (ht : onReply h ev s = .next t) : s.Keeps t :=
  running_keeps (fun s => State.replyArrives_keeps s h ev) ht

theorem deadline_keeps {d : Deadline} {s t : State}
    (ht : (.next (s.whileRunning (fun s => s.fallsDue d)) : Host.Outcome State Fault Refusal) = .next t) : s.Keeps t :=
  running_keeps (fun s => State.fallsDue_keeps s d) ht

theorem Rule.Keeps.serve {rule : Rule} (h : rule.Keeps) {mine : Request → Bool} {s t : State}
    (ht : (.next (s.serve mine rule) : Host.Outcome State Fault Refusal) = .next t) : s.Keeps t := by
  cases ht; exact State.serve_keeps h s mine

/-- Every command of the table keeps the four invariants. -/
theorem exec_keeps {i : Instr} {s t : State} (h : exec i s = .next t) : s.Keeps t := by
  cases i with
  | powerOn straps => cases h; exact State.powerUp_keeps _ _ _
  | resetAsserted => cases h; exact State.Kept.keeps {}
  | resetReleased straps => cases h; exact State.powerUp_keeps _ _ _
  | requestFrame bytes => exact running_keeps (fun s => (State.receive_kept s bytes).keeps) h
  | requestQueueFull => exact running_keeps (fun s => (State.answerOverflow_kept s).keeps) h
  | unknownRequest => exact (refuse_reads _).keeps.serve h
  | badLength => exact (refuse_reads _).keeps.serve h
  | putTenant => exact putTenantRule_keeps.serve h
  | getTenant => exact getTenantRule_reads.keeps.serve h
  | removeTenant => exact removeTenantRule_keeps.serve h
  | enrolUser => exact enrolUserRule_keeps.serve h
  | amendUser => exact amendUserRule_keeps.serve h
  | suspendUser => exact (userStateRule_keeps _ _).serve h
  | reinstateUser => exact (userStateRule_keeps _ _).serve h
  | removeUser => exact removeUserRule_keeps.serve h
  | getUser => exact getUserRule_reads.keeps.serve h
  | findBadge => exact findBadgeRule_reads.keeps.serve h
  | adjustAccount => exact adjustAccountRule_keeps.serve h
  | setRates => exact setRatesRule_keeps.serve h
  | holdJob => exact holdJobRule_keeps.serve h
  | commitSpool => exact commitSpoolRule_keeps.serve h
  | cancelJob => exact cancelJobRule_keeps.serve h
  | spoolFault => exact spoolFaultRule_keeps.serve h
  | getJob => exact getJobRule_reads.keeps.serve h
  | listJobs => exact listJobsRule_reads.keeps.serve h
  | setPartitions => exact setPartitionsRule_keeps.serve h
  | probeRelease => exact probeReleaseRule_reads.keeps.serve h
  | setReleaseTiming => exact setReleaseTimingRule_keeps.serve h
  | admitStation => exact admitStationRule_keeps.serve h
  | parkStation => exact parkStationRule_keeps.serve h
  | unparkStation => exact unparkStationRule_keeps.serve h
  | setStation => exact setStationRule_keeps.serve h
  | retireStation => exact retireStationRule_keeps.serve h
  | getStation => exact getStationRule_reads.keeps.serve h
  | sweepRiser => exact sweepRiserRule_keeps.serve h
  | linkReset => exact linkResetRule_keeps.serve h
  | getConsumable => exact getConsumableRule_reads.keeps.serve h
  | listReorders => exact listReordersRule_reads.keeps.serve h
  | approveReorder => exact approveReorderRule_keeps.serve h
  | placeReorder => exact placeReorderRule_keeps.serve h
  | cancelReorder => exact cancelReorderRule_keeps.serve h
  | ackCallout => exact ackCalloutRule_keeps.serve h
  | closeCallout => exact closeCalloutRule_keeps.serve h
  | setCalloutPolicy => exact setCalloutPolicyRule_keeps.serve h
  | listCallouts => exact listCalloutsRule_reads.keeps.serve h
  | readClock => exact readClockRule_reads.keeps.serve h
  | setClock => exact setClockRule_keeps.serve h
  | setInterval => exact setIntervalRule_keeps.serve h
  | readInterval => exact readIntervalRule_reads.keeps.serve h
  | partInfo => exact partInfoRule_reads.keeps.serve h
  | fetchNotice => exact fetchNoticeRule_keeps.serve h
  | setNoticeMask => exact setNoticeMaskRule_keeps.serve h
  | restartJobs => exact restartJobsRule_keeps.serve h
  | restartAll => exact restartAllRule_keeps.serve h
  | poll r => exact running_keeps (fun s => (State.nextPoll_kept s r.val).keeps) h
  | emptyCycle r => exact running_keeps (fun s => (State.idleCycle_kept s r.val).keeps) h
  | sweepTrial r reply => exact running_keeps (fun s => State.trial_keeps s r.val reply) h
  | miss r => exact running_keeps (fun s => State.missEnds_keeps s r.val) h
  | idle | hello | badge | jobStart | jobProgress | jobEnd | jobAbort | levels | faultSet | faultClear | pause
  | resume | eventDiscarded => exact onReply_keeps h
  | holdDeadline | commitDeadline | startDeadline | abandonDeadline | faultDueMinute | tierDeadline
  | reorderDueMinute => exact deadline_keeps h
  | clockAdvance => exact running_keeps (fun s => (State.markMinute_kept s).keeps) h
  | intervalExpired counter => exact running_keeps (fun s => (State.takeExpiry_kept s counter.val).keeps) h

theorem step_keeps {s t : State} (h : step s = .next t) : s.Keeps t := by
  unfold step at h
  split at h
  case h_1 => cases h; exact (State.idles_kept s).keeps
  case h_2 c rest _ => exact (State.Kept.keeps (t := { s with pending := rest }) {}).trans (exec_keeps h)

/-! ### The four invariants -/

/-- Settles O56: every command keeps the queues' capacities, the links' command lists through the lemmas on handing over
and taking a command. -/
theorem everyStepKeepsQueueCapacities : Obligations.EveryStepKeepsQueueCapacities :=
  fun _ _ inv h => (step_keeps h).queue inv

/-- Settles O57: every command keeps the ranges; a used is written by a clamped operation alone. -/
theorem everyStepKeepsCountsInRange : Obligations.EveryStepKeepsCountsInRange :=
  fun _ _ inv h => (step_keeps h).count inv

/-- Settles O58: a command writes a table by the operations that keep it sorted, and a job enters a slot under the
handle that the slot and its generation make. -/
theorem everyStepKeepsTablesCanonical : Obligations.EveryStepKeepsTablesCanonical :=
  fun _ _ inv h => (step_keeps h).canonical inv

/-- Settles O59: the owner lists change at a HOLD, a deletion, REMOVE USER and the restarts alone, and each changes
the store alike. -/
theorem everyStepKeepsOwnerLists : Obligations.EveryStepKeepsOwnerLists :=
  fun _ _ inv h => (step_keeps h).owner inv

/-- Settles O60. -/
theorem invariantsHoldAtReset : Obligations.InvariantsHoldAtReset :=
  ⟨reset_queueInv, reset_countInv, reset_canonical, reset_ownerInv⟩

end Sys2Proof.Machine
end

section
/-! The queue of commands, power and RESET (O1 to O4). -/

namespace Sys2Proof.Machine

/-! ### The front of the queue -/

theorem State.idles_held {s : State} (h : s.resetHeld = true) : s.idles = s := by
  simp [State.idles, State.whileRunning, h]

theorem State.idles_running {s : State} (h : s.resetHeld = false) : s.idles = s.sendNext :=
  State.whileRunning_run h _

theorem step_idle {s : State} (h : s.pending = []) : step s = .next s.idles := by
  simp [step, h]

/-- Settles O1: what a step with no command does is `State.sendNext`, case by case. -/
theorem stepRunsFrontCommand : Obligations.StepRunsFrontCommand := by
  refine ⟨fun c rest s h => by simp [step, h], fun s h held => ?held, fun s h running => ?running⟩
  case held => rw [step_idle h, State.idles_held held]
  case running =>
    rw [step_idle h, State.idles_running running]
    refine ⟨fun f more ho => ?_, fun r more ho hr => ?_, fun ho hr => ?_⟩
    · simp [State.sendNext, State.answerOverflow, queueFullReply, ho]
    · simp [State.sendNext, ho, hr]
    · simp [State.sendNext, ho, hr]

/-! ### Power-on -/

theorem reset_tenantOf : State.reset.tenantOf 0 = {} := rfl

theorem reset_risers {r : Nat} (h : r < 4) : State.reset.risers.item r = {} := by
  match r, h with
  | 0, _ => rfl
  | 1, _ => rfl
  | 2, _ => rfl
  | 3, _ => rfl

/-- Settles O2: each table at its restart value. -/
theorem resetLeavesPowerOnValues : Obligations.ResetLeavesPowerOnValues := by
  refine ⟨⟨rfl, rfl, rfl, rfl, rfl, fun c => by cases c <;> rfl⟩, ⟨rfl, ?tenant⟩, ⟨rfl, rfl, fun _ => rfl, rfl⟩,
    ⟨rfl, rfl, rfl⟩, ⟨rfl, rfl, rfl, rfl⟩, ⟨rfl, fun r hr => ?riser⟩, ⟨rfl, rfl, rfl⟩, ⟨rfl, rfl, rfl, rfl, rfl⟩,
    ⟨rfl, rfl, rfl, rfl, rfl⟩⟩
  case tenant => simp [reset_tenantOf]
  case riser => simp [reset_risers hr]

/-- Settles O3. -/
theorem powerAndResetCommands : Obligations.PowerAndResetCommands :=
  fun _ _ => ⟨rfl, rfl, rfl, rfl, rfl⟩

/-! ### RESET held -/

theorem held_run {s : State} (h : s.resetHeld = true) (f : State → State) :
    (.next (s.whileRunning f) : Host.Outcome State Fault Refusal) = .next s := by
  simp [State.whileRunning, h]

theorem held_serve {s : State} (h : s.resetHeld = true) (mine : Request → Bool) (rule : Rule) :
    (.next (s.serve mine rule) : Host.Outcome State Fault Refusal) = .next s := by
  simp [State.serve, h]

/-- While RESET is held a command is without effect unless it is one of power or RESET (R179). -/
theorem exec_held {i : Instr} {s : State} (h : s.resetHeld = true) (hp : ∀ p, i ≠ .powerOn p)
    (hr : ∀ p, i ≠ .resetReleased p) (ha : i ≠ .resetAsserted) : exec i s = .next s := by
  cases i with
  | powerOn p => exact absurd rfl (hp p)
  | resetReleased p => exact absurd rfl (hr p)
  | resetAsserted => exact absurd rfl ha
  | requestFrame | requestQueueFull | poll | emptyCycle | sweepTrial | miss | idle | hello | badge | jobStart
  | jobProgress | jobEnd | jobAbort | levels | faultSet | faultClear | pause | resume | eventDiscarded | holdDeadline
  | commitDeadline | startDeadline | abandonDeadline | faultDueMinute | tierDeadline | reorderDueMinute | clockAdvance
  | intervalExpired => exact held_run h _
  | _ => exact held_serve h _ _

/-- Settles O4: RnDIR during a POLL is high exactly when the pass sends a poll. -/
theorem resetHeldStopsEveryBlock : Obligations.ResetHeldStopsEveryBlock := by
  refine ⟨fun i s held => ⟨by simp [State.txdIdle, held], by simp [State.attn, held],
    fun r => by simp [State.rnDir, held], fun hp hr ha => exec_held held hp hr ha⟩,
    fun s running => ⟨by simp [State.txdIdle, running], by simp [State.attn, running], fun r t ht => ?_⟩⟩
  have polled : exec (.poll r) s = .next (s.nextPoll r.val) :=
    congrArg Host.Outcome.next (State.whileRunning_run running _)
  rw [polled] at ht
  cases ht
  simp [State.rnDir, State.sendsOn, State.sendsPoll, running, Option.isSome_iff_ne_none]

end Sys2Proof.Machine
end

section
/-! The host port: frames, their turns and their answers (O5 to O9), and the restarts (O14). -/

namespace Sys2Proof.Machine

/-! ### The hunt for frames -/

@[simp] theorem hunt_nil (n : Nat) : hunt n [] = ([], []) := by cases n <;> rfl

theorem hunt_skip {b : Byte} (h : b ≠ Config.syncByte) (n : Nat) (bs : List Byte) :
    hunt (n + 1) (b :: bs) = hunt n bs := if_pos h

/-- Bytes before a sync byte are passed over (R180). -/
theorem hunt_noise {noise : List Byte} (h : ∀ b ∈ noise, b ≠ Config.syncByte) (n : Nat) (bs : List Byte) :
    hunt (noise.length + n) (noise ++ bs) = hunt n bs := by
  induction noise with
  | nil => simp
  | cons b noise ih =>
    rw [List.forall_mem_cons] at h
    rw [List.length_cons, Nat.add_right_comm, List.cons_append, hunt_skip h.1, ih h.2]

/-- A frame whose length field is that of its body, and nothing behind it: it is accepted when it passes its check, and
discarded otherwise (R180, R181). -/
theorem hunt_frame {l1 l2 kind tag rt c1 c0 : Byte} {body : List Byte} (hl : wordOf l1 l2 = body.length)
    (hb : body.length ≤ 1020) (n : Nat) :
    hunt (n + 1) (Config.syncByte :: l1 :: l2 :: kind :: tag :: rt :: (body ++ [c1, c0])) =
      if c1.toNat * 256 + c0.toNat = checkSum ([l1, l2, kind, tag, rt] ++ body) then
        ([requestOf kind tag rt body false], [])
      else ([], []) := by
  have fits : ¬ Config.maxBodyLength < body.length := by simp only [Config.maxBodyLength]; omega
  simp only [hunt, ne_eq, not_true, if_false, hl, if_neg fits, List.length_append, List.length_cons, List.length_nil,
    Nat.lt_irrefl, passesCheck, List.drop_left, List.take_left]
  have behind : (body ++ [c1, c0]).drop (body.length + 2) = [] := by simp
  simp [behind, bytesToNat]

theorem hunt_oversize {l1 l2 : Byte} (hl : 1020 < wordOf l1 l2) (kind tag rt : Byte) (n : Nat) :
    hunt (n + 1) [Config.syncByte, l1, l2, kind, tag, rt] = ([requestOf kind tag rt [] true], []) := by
  have big : Config.maxBodyLength < wordOf l1 l2 := hl
  simp [hunt, big]

/-- A number below 65,536 is the word of its two bytes. -/
theorem wordOf_bytes {n : Nat} (h : n < 65536) : wordOf (BitVec.ofNat 8 (n / 256)) (BitVec.ofNat 8 n) = n := by
  simp only [wordOf, BitVec.toNat_ofNat]
  omega

theorem checkSum_lt (bs : List Byte) : checkSum bs < 65536 := Nat.mod_lt _ (by omega)

/-! ### Frames received -/

theorem State.receive_hunt {s : State} (hrx : s.rx = []) (bytes : List Byte) :
    s.receive bytes = (hunt bytes.length bytes).1.foldl State.acceptFrame { s with rx := (hunt bytes.length bytes).2 } := by
  simp [State.receive, hrx]

theorem State.rx_nil {s : State} (hrx : s.rx = []) : { s with rx := [] } = s := by rw [← hrx]

theorem exec_requestFrame {s : State} (running : s.resetHeld = false) (bytes : List Byte) :
    exec (.requestFrame bytes) s = .next (s.receive bytes) :=
  congrArg Host.Outcome.next (State.whileRunning_run running _)

/-- One whole frame with noise before it: what the hunt finds enters the queue or is turned away. -/
theorem State.receive_frame {s : State} (hrx : s.rx = []) {noise body : List Byte} {kind tag rt c1 c0 : Byte}
    (hn : ∀ b ∈ noise, b ≠ 0xC5#8) (hb : body.length ≤ 1020) :
    let head : List Byte := [BitVec.ofNat 8 (body.length / 256), BitVec.ofNat 8 body.length, kind, tag, rt]
    s.receive (noise ++ 0xC5#8 :: (head ++ body ++ [c1, c0])) =
      if c1.toNat * 256 + c0.toNat = checkSum (head ++ body) then s.acceptFrame (requestOf kind tag rt body false)
      else s := by
  intro head
  have shape : head ++ body ++ [c1, c0] = BitVec.ofNat 8 (body.length / 256) :: BitVec.ofNat 8 body.length :: kind ::
    tag :: rt :: (body ++ [c1, c0]) := by simp [head]
  have found := hunt_frame (kind := kind) (tag := tag) (rt := rt) (c1 := c1) (c0 := c0)
    (wordOf_bytes (show body.length < 65536 by omega)) hb (head ++ body ++ [c1, c0]).length
  rw [← shape] at found
  have hunted := (hunt_noise hn ((head ++ body ++ [c1, c0]).length + 1) (0xC5#8 :: (head ++ body ++ [c1, c0]))).trans found
  rw [State.receive_hunt hrx, List.length_append, List.length_cons, hunted]
  split <;> simp [State.rx_nil hrx]

/-- A check computed over the frame passes. -/
theorem checkSum_bytes (bs : List Byte) :
    (BitVec.ofNat 8 (checkSum bs / 256)).toNat * 256 + (BitVec.ofNat 8 (checkSum bs)).toNat = checkSum bs :=
  wordOf_bytes (checkSum_lt bs)

theorem State.acceptFrame_room {s : State} (h : s.requests.length < 8) (q : Request) :
    s.acceptFrame q = { s with requests := s.requests ++ [q] } := if_pos h

theorem State.acceptFrame_full {s : State} (h : 8 ≤ s.requests.length) (q : Request) :
    s.acceptFrame q = { s with overflow := s.overflow ++ [(q.kind, q.tag)] } :=
  if_neg (by simp only [Config.requestCapacity]; omega)

/-- Settles O5: the hunt passes over the noise, and the check decides. -/
theorem framesAreCheckedAndQueued : Obligations.FramesAreCheckedAndQueued := by
  intro s noise body kind tag rt running hrx hn hb room head sum
  have good := (State.receive_frame (kind := kind) (tag := tag) (rt := rt) hrx hn hb).trans
    (if_pos (checkSum_bytes (head ++ body)))
  refine ⟨?_, fun c1 c0 bad => ?_⟩
  · rw [exec_requestFrame running]
    exact congrArg Host.Outcome.next (good.trans (State.acceptFrame_room room _))
  · rw [exec_requestFrame running]
    exact congrArg Host.Outcome.next ((State.receive_frame hrx hn hb).trans (if_neg bad))

theorem exec_requestQueueFull {s : State} (running : s.resetHeld = false) :
    exec .requestQueueFull s = .next s.answerOverflow :=
  congrArg Host.Outcome.next (State.whileRunning_run running _)

/-- Settles O6: the queue is full when the frame completes, and TXD takes the owed answers first. -/
theorem fullQueueTurnsFramesAway : Obligations.FullQueueTurnsFramesAway := by
  refine ⟨fun s body kind tag rt running hrx hb full => ?turned, fun s kind tag more running owed => ?answered,
    fun s none => ?nothing, fun s q a => ⟨fun idle noneOwed noneWaits => ?begins, State.reply_waits q a⟩⟩
  case turned =>
    intro head sum
    have good := (State.receive_frame (kind := kind) (tag := tag) (rt := rt) (noise := []) hrx (by simp) hb).trans
      (if_pos (checkSum_bytes (head ++ body)))
    rw [exec_requestFrame running]
    exact congrArg Host.Outcome.next (good.trans (State.acceptFrame_full full _))
  case answered => rw [exec_requestQueueFull running]; simp [State.answerOverflow, owed, queueFullReply]
  case nothing =>
    change Host.Outcome.next (s.whileRunning State.answerOverflow) = .next s
    simp [State.whileRunning, State.answerOverflow, none]
  case begins => rw [State.reply_begins q a idle noneOwed noneWaits, ← noneWaits]

/-! ### Turns that are refused -/

theorem serve_refused {s : State} {q : Request} {rest : List Request} {mine : Request → Bool} {r : Reason} {rule : Rule}
    (running : s.resetHeld = false) (front : s.requests = q :: rest) (hm : mine q = true)
    (h : rule q (s.leaving rest) = .error r) :
    (.next (s.serve mine rule) : Host.Outcome State Fault Refusal) = .next (s.answered rest q (.refused r)) := by
  rw [State.serve_front rule running front hm, State.carryOut_error h]; rfl

theorem Request.isBadLength_of {q : Request}
    (h : q.oversize = true ∨ ∃ k, kindOfCode q.kind = some k ∧ q.body.length ≠ k.bodyLength) : q.isBadLength = true := by
  rcases h with h | ⟨k, hk, hl⟩
  · simp [Request.isBadLength, h]
  · simp [Request.isBadLength, hk, hl]

/-- Settles O7. -/
theorem unusableFramesAreRefusedInTurn : Obligations.UnusableFramesAreRefusedInTurn := by
  refine ⟨fun s l1 l0 kind tag rt running hrx room big => ⟨requestOf kind tag rt [] true, ?_, rfl, rfl, rfl⟩,
    fun s q rest running front bad => ?_, fun s q rest running front whole unlisted => ?_⟩
  · have found : hunt [0xC5#8, l1, l0, kind, tag, rt].length [0xC5#8, l1, l0, kind, tag, rt] =
        ([requestOf kind tag rt [] true], []) := hunt_oversize big kind tag rt 5
    rw [exec_requestFrame running, State.receive_hunt hrx, found]
    show Host.Outcome.next ({ s with rx := [] }.acceptFrame _) = _
    rw [State.rx_nil hrx, State.acceptFrame_room room]
  · exact serve_refused running front (Request.isBadLength_of bad) rfl
  · exact serve_refused running front (by simp [Request.isUnknown, whole, unlisted]) rfl

/-! ### One answer a request -/

/-- A request that is carried out is answered once; where the answer refuses, nothing else has changed (R183). -/
theorem State.carryOut_answers (s : State) (q : Request) (rule : Rule) :
    ∃ (t : State) (a : Answer), s.carryOut q rule = t.reply q a ∧ ∀ r, a = .refused r → t = s := by
  unfold State.carryOut
  split
  case h_1 r _ => exact ⟨s, .refused r, rfl, fun _ _ => rfl⟩
  case h_2 d _ =>
    refine ⟨d.state, _, rfl, fun r hr => ?_⟩
    split at hr <;> cases hr

theorem serve_answers {s : State} {q : Request} {rest : List Request} {mine : Request → Bool} (rule : Rule)
    (running : s.resetHeld = false) (front : s.requests = q :: rest) (hm : mine q = true) :
    ∃ (t : State) (a : Answer),
      (.next (s.serve mine rule) : Host.Outcome State Fault Refusal) = .next (t.reply q a) ∧
        ∀ r, a = .refused r → t = s.leaving rest := by
  obtain ⟨t, a, h, hr⟩ := State.carryOut_answers (s.leaving rest) q rule
  exact ⟨t, a, by rw [State.serve_front rule running front hm, h], hr⟩

/-- Settles O8: every command that carries out a request does so by `State.serve`. -/
theorem refusalsLeaveEveryRecord : Obligations.RefusalsLeaveEveryRecord := by
  intro i s q rest running front mine
  cases i with
  | powerOn | resetAsserted | resetReleased | requestFrame | requestQueueFull | poll | emptyCycle | sweepTrial | miss
  | idle | hello | badge | jobStart | jobProgress | jobEnd | jobAbort | levels | faultSet | faultClear | pause | resume
  | eventDiscarded | holdDeadline | commitDeadline | startDeadline | abandonDeadline | faultDueMinute | tierDeadline
  | reorderDueMinute | clockAdvance | intervalExpired => cases mine
  | _ => exact serve_answers _ running front mine

/-! ### Role permission -/

/-- A rule that refuses with what steps 1 to 3 of R9 refuse with, before anything else is looked at. -/
def Rule.Authorises (rule : Rule) (k : Kind) : Prop :=
  ∀ q s r, (∀ bound, authorise k q bound s = .error r) → rule q s = .error r

theorem namedJob_error {k : Kind} {q : Request} {s : State} {r : Reason}
    (h : ∀ bound, authorise k q bound s = .error r) : namedJob k q s = .error r := by simp [namedJob, h]

theorem namedStation_error {k : Kind} {q : Request} {s : State} {r : Reason}
    (h : ∀ bound, authorise k q bound s = .error r) : namedStation k q s = .error r := by simp [namedStation, h]

theorem namedReorder_error {k : Kind} {q : Request} {b : Bool} {s : State} {r : Reason}
    (h : ∀ bound, authorise k q bound s = .error r) : namedReorder k q b s = .error r := by simp [namedReorder, h]

theorem namedCallout_error {k : Kind} {q : Request} {s : State} {r : Reason}
    (h : ∀ bound, authorise k q bound s = .error r) : namedCallout k q s = .error r := by simp [namedCallout, h]

/-- Steps 1 and 2 of R9 refuse whatever the request names. -/
theorem authorise_unpermitted {k : Kind} {q : Request} {s : State}
    (h : k.permission q.role = .no ∨ (2 ≤ q.role ∧ s.tenants.has q.tenant = false)) (bound : List Binding) :
    authorise k q bound s = .error .notPermitted := by
  rcases h with h | ⟨hr, ht⟩
  · exact authorise_no bound s h
  · exact authorise_absent bound s hr ht

theorem Request.kind_of_isKind {q : Request} {k : Kind} (h : q.isKind k = true) : kindOfCode q.kind = some k := by
  simp only [Request.isKind, Bool.and_eq_true, decide_eq_true_eq] at h
  exact h.1.2

theorem serve_unpermitted {k k' : Kind} {rule : Rule} (authorises : rule.Authorises k') {s : State} {q : Request}
    {rest : List Request} {mine : Request → Bool} (running : s.resetHeld = false) (front : s.requests = q :: rest)
    (hm : mine q = true) (hk : kindOfCode q.kind = some k) (hk' : kindOfCode q.kind = some k')
    (h : k.permission q.role = .no ∨ (2 ≤ q.role ∧ s.tenants.has q.tenant = false)) :
    (.next (s.serve mine rule) : Host.Outcome State Fault Refusal) = .next (s.answered rest q (.refused .notPermitted)) := by
  obtain rfl : k = k' := Option.some.inj (hk.symm.trans hk')
  exact serve_refused running front hm (authorises q _ _ (authorise_unpermitted (s := s.leaving rest) h))

theorem Request.isKind_of_isRestart {q : Request} {n : Nat} (h : q.isRestart n = true) : q.isKind .restart = true := by
  simp only [Request.isRestart, Bool.and_eq_true] at h
  exact h.1

theorem Request.isUnknown_unlisted {q : Request} (h : q.isUnknown = true) : kindOfCode q.kind = none := by
  simpa [Request.isUnknown] using (Bool.and_eq_true_iff.1 h).2

/-- Settles O9: every request's rule looks at its authority before anything else. -/
theorem roleWithoutPermissionIsRefused : Obligations.RoleWithoutPermissionIsRefused := by
  intro i k s q rest running front mine notBadLength listed refused
  cases i with
  | powerOn | resetAsserted | resetReleased | requestFrame | requestQueueFull | poll | emptyCycle | sweepTrial | miss
  | idle | hello | badge | jobStart | jobProgress | jobEnd | jobAbort | levels | faultSet | faultClear | pause | resume
  | eventDiscarded | holdDeadline | commitDeadline | startDeadline | abandonDeadline | faultDueMinute | tierDeadline
  | reorderDueMinute | clockAdvance | intervalExpired => cases mine
  | badLength => exact absurd rfl notBadLength
  | unknownRequest => rw [Request.isUnknown_unlisted mine] at listed; cases listed
  | putTenant =>
    exact serve_unpermitted (k' := .putTenant) (fun _ _ _ h => by simp [putTenantRule, h]) running front mine listed
      (Request.kind_of_isKind mine) refused
  | getTenant =>
    exact serve_unpermitted (k' := .getTenant) (fun _ _ _ h => by simp [getTenantRule, h]) running front mine listed
      (Request.kind_of_isKind mine) refused
  | removeTenant =>
    exact serve_unpermitted (k' := .removeTenant) (fun _ _ _ h => by simp [removeTenantRule, h]) running front mine listed
      (Request.kind_of_isKind mine) refused
  | enrolUser =>
    exact serve_unpermitted (k' := .enrolUser) (fun _ _ _ h => by simp [enrolUserRule, h]) running front mine listed
      (Request.kind_of_isKind mine) refused
  | amendUser =>
    exact serve_unpermitted (k' := .amendUser) (fun _ _ _ h => by simp [amendUserRule, h]) running front mine listed
      (Request.kind_of_isKind mine) refused
  | suspendUser =>
    exact serve_unpermitted (k' := .suspendUser) (fun _ _ _ h => by simp [userStateRule, h]) running front mine listed
      (Request.kind_of_isKind mine) refused
  | reinstateUser =>
    exact serve_unpermitted (k' := .reinstateUser) (fun _ _ _ h => by simp [userStateRule, h]) running front mine listed
      (Request.kind_of_isKind mine) refused
  | removeUser =>
    exact serve_unpermitted (k' := .removeUser) (fun _ _ _ h => by simp [removeUserRule, h]) running front mine listed
      (Request.kind_of_isKind mine) refused
  | getUser =>
    exact serve_unpermitted (k' := .getUser) (fun _ _ _ h => by simp [getUserRule, h]) running front mine listed
      (Request.kind_of_isKind mine) refused
  | findBadge =>
    exact serve_unpermitted (k' := .findBadge) (fun _ _ _ h => by simp [findBadgeRule, h]) running front mine listed
      (Request.kind_of_isKind mine) refused
  | adjustAccount =>
    exact serve_unpermitted (k' := .adjustAccount) (fun _ _ _ h => by simp [adjustAccountRule, h]) running front mine listed
      (Request.kind_of_isKind mine) refused
  | setRates =>
    exact serve_unpermitted (k' := .setRates) (fun _ _ _ h => by simp [setRatesRule, h]) running front mine listed
      (Request.kind_of_isKind mine) refused
  | holdJob =>
    exact serve_unpermitted (k' := .holdJob) (fun _ _ _ h => by simp [holdJobRule, h]) running front mine listed
      (Request.kind_of_isKind mine) refused
  | commitSpool =>
    exact serve_unpermitted (k' := .commitSpool) (fun _ _ _ h => by simp [commitSpoolRule, namedJob_error h]) running front mine listed
      (Request.kind_of_isKind mine) refused
  | cancelJob =>
    exact serve_unpermitted (k' := .cancelJob) (fun _ _ _ h => by simp [cancelJobRule, namedJob_error h]) running front mine listed
      (Request.kind_of_isKind mine) refused
  | spoolFault =>
    exact serve_unpermitted (k' := .spoolFault) (fun _ _ _ h => by simp [spoolFaultRule, namedJob_error h]) running front mine listed
      (Request.kind_of_isKind mine) refused
  | getJob =>
    exact serve_unpermitted (k' := .getJob) (fun _ _ _ h => by simp [getJobRule, namedJob_error h]) running front mine listed
      (Request.kind_of_isKind mine) refused
  | listJobs =>
    exact serve_unpermitted (k' := .listJobs) (fun _ _ _ h => by simp [listJobsRule, h]) running front mine listed
      (Request.kind_of_isKind mine) refused
  | setPartitions =>
    exact serve_unpermitted (k' := .setPartitions) (fun _ _ _ h => by simp [setPartitionsRule, h]) running front mine listed
      (Request.kind_of_isKind mine) refused
  | probeRelease =>
    exact serve_unpermitted (k' := .probeRelease) (fun _ _ _ h => by simp [probeReleaseRule, h]) running front mine listed
      (Request.kind_of_isKind mine) refused
  | setReleaseTiming =>
    exact serve_unpermitted (k' := .setReleaseTiming) (fun _ _ _ h => by simp [setReleaseTimingRule, h]) running front mine listed
      (Request.kind_of_isKind mine) refused
  | admitStation =>
    exact serve_unpermitted (k' := .admitStation) (fun _ _ _ h => by simp [admitStationRule, h]) running front mine listed
      (Request.kind_of_isKind mine) refused
  | parkStation =>
    exact serve_unpermitted (k' := .parkStation) (fun _ _ _ h => by simp [parkStationRule, namedStation_error h]) running front mine listed
      (Request.kind_of_isKind mine) refused
  | unparkStation =>
    exact serve_unpermitted (k' := .unparkStation) (fun _ _ _ h => by simp [unparkStationRule, namedStation_error h]) running front mine listed
      (Request.kind_of_isKind mine) refused
  | setStation =>
    exact serve_unpermitted (k' := .setStation) (fun _ _ _ h => by simp [setStationRule, h]) running front mine listed
      (Request.kind_of_isKind mine) refused
  | retireStation =>
    exact serve_unpermitted (k' := .retireStation) (fun _ _ _ h => by simp [retireStationRule, namedStation_error h]) running front mine listed
      (Request.kind_of_isKind mine) refused
  | getStation =>
    exact serve_unpermitted (k' := .getStation) (fun _ _ _ h => by simp [getStationRule, namedStation_error h]) running front mine listed
      (Request.kind_of_isKind mine) refused
  | sweepRiser =>
    exact serve_unpermitted (k' := .sweepRiser) (fun _ _ _ h => by simp [sweepRiserRule, h]) running front mine listed
      (Request.kind_of_isKind mine) refused
  | linkReset =>
    exact serve_unpermitted (k' := .linkReset) (fun _ _ _ h => by simp [linkResetRule, h]) running front mine listed
      (Request.kind_of_isKind mine) refused
  | getConsumable =>
    exact serve_unpermitted (k' := .getConsumable) (fun _ _ _ h => by simp [getConsumableRule, h]) running front mine listed
      (Request.kind_of_isKind mine) refused
  | listReorders =>
    exact serve_unpermitted (k' := .listReorders) (fun _ _ _ h => by simp [listReordersRule, h]) running front mine listed
      (Request.kind_of_isKind mine) refused
  | approveReorder =>
    exact serve_unpermitted (k' := .approveReorder) (fun _ _ _ h => by simp [approveReorderRule, namedReorder_error h]) running front mine listed
      (Request.kind_of_isKind mine) refused
  | placeReorder =>
    exact serve_unpermitted (k' := .placeReorder) (fun _ _ _ h => by simp [placeReorderRule, namedReorder_error h]) running front mine listed
      (Request.kind_of_isKind mine) refused
  | cancelReorder =>
    exact serve_unpermitted (k' := .cancelReorder) (fun _ _ _ h => by simp [cancelReorderRule, namedReorder_error h]) running front mine listed
      (Request.kind_of_isKind mine) refused
  | ackCallout =>
    exact serve_unpermitted (k' := .ackCallout) (fun _ _ _ h => by simp [ackCalloutRule, namedCallout_error h]) running front mine listed
      (Request.kind_of_isKind mine) refused
  | closeCallout =>
    exact serve_unpermitted (k' := .closeCallout) (fun _ _ _ h => by simp [closeCalloutRule, namedCallout_error h]) running front mine listed
      (Request.kind_of_isKind mine) refused
  | setCalloutPolicy =>
    exact serve_unpermitted (k' := .setCalloutPolicy) (fun _ _ _ h => by simp [setCalloutPolicyRule, h]) running front mine listed
      (Request.kind_of_isKind mine) refused
  | listCallouts =>
    exact serve_unpermitted (k' := .listCallouts) (fun _ _ _ h => by simp [listCalloutsRule, h]) running front mine listed
      (Request.kind_of_isKind mine) refused
  | readClock =>
    exact serve_unpermitted (k' := .readClock) (fun _ _ _ h => by simp [readClockRule, h]) running front mine listed
      (Request.kind_of_isKind mine) refused
  | setClock =>
    exact serve_unpermitted (k' := .setClock) (fun _ _ _ h => by simp [setClockRule, h]) running front mine listed
      (Request.kind_of_isKind mine) refused
  | setInterval =>
    exact serve_unpermitted (k' := .setInterval) (fun _ _ _ h => by simp [setIntervalRule, h]) running front mine listed
      (Request.kind_of_isKind mine) refused
  | readInterval =>
    exact serve_unpermitted (k' := .readInterval) (fun _ _ _ h => by simp [readIntervalRule, h]) running front mine listed
      (Request.kind_of_isKind mine) refused
  | partInfo =>
    exact serve_unpermitted (k' := .partInfo) (fun _ _ _ h => by simp [partInfoRule, h]) running front mine listed
      (Request.kind_of_isKind mine) refused
  | fetchNotice =>
    exact serve_unpermitted (k' := .fetchNotice) (fun _ _ _ h => by simp [fetchNoticeRule, h]) running front mine listed
      (Request.kind_of_isKind mine) refused
  | setNoticeMask =>
    exact serve_unpermitted (k' := .setNoticeMask) (fun _ _ _ h => by simp [setNoticeMaskRule, h]) running front mine listed
      (Request.kind_of_isKind mine) refused
  | restartJobs =>
    exact serve_unpermitted (k' := .restart) (fun _ _ _ h => by simp [restartJobsRule, h]) running front mine listed
      (Request.kind_of_isKind (Request.isKind_of_isRestart mine)) refused
  | restartAll =>
    exact serve_unpermitted (k' := .restart) (fun _ _ _ h => by simp [restartAllRule, h]) running front mine listed
      (Request.kind_of_isKind (Request.isKind_of_isRestart mine)) refused

end Sys2Proof.Machine
end

section
/-! The restarts (O14) and the settings that one request writes whole (O23). -/

namespace Sys2Proof.Machine

/-! ### Restarts -/

theorem State.advanceSlots_generation {slots : List Nat} (once : slots.Nodup) {s : State} (hg : s.generations.Sorted)
    (slot : Nat) :
    (slots.foldl State.advanceSlot s).generation slot =
      if slot ∈ slots then (s.generation slot + 1) % 256 else s.generation slot := by
  induction slots generalizing s with
  | nil => simp
  | cons n slots ih =>
    obtain ⟨hn, once⟩ := List.nodup_cons.1 once
    have now := State.setGeneration_generation hg n ((s.generation n + 1) % 256) slot
    rw [List.foldl_cons, ih once (s := s.advanceSlot n) (State.setGeneration_sorted hg)]
    by_cases h : slot = n
    · subst h
      rw [if_neg hn, if_pos List.mem_cons_self]
      exact now.trans (if_pos rfl)
    · have same : (s.advanceSlot n).generation slot = s.generation slot := now.trans (if_neg h)
      simp only [same, List.mem_cons, h, false_or]

theorem Table.Sorted.nodup {α : Type} {t : Table α} (h : t.Sorted) : t.numbers.Nodup :=
  List.Pairwise.imp (fun h => Nat.ne_of_lt h) h

theorem Table.has_iff {α : Type} {t : Table α} {n : Nat} : t.has n = true ↔ n ∈ t.numbers := Table.fetch_isSome_iff t n

theorem State.restartJobs_generation {s : State} (hj : s.jobs.Sorted) (hg : s.generations.Sorted) (slot : Nat) :
    s.restartJobs.generation slot = if s.jobs.has slot then (s.generation slot + 1) % 256 else s.generation slot := by
  have generations : s.restartJobs.generation slot = s.advanceGenerations.generation slot := by
    rw [State.restartJobs_eq]; rfl
  rw [generations, State.advanceGenerations_eq, State.advanceSlots_generation hj.nodup hg]
  simp only [Table.has_iff]

theorem State.restartJobs_riser (s : State) (r : Nat) : s.restartJobs.risers.item r = (s.risers.item r).afterJobs := by
  rw [State.restartJobs_eq]
  match r with
  | 0 | 1 | 2 | _ + 3 => rfl

theorem authorise_restart {q : Request} (s : State) (h : q.role = 0) : authorise .restart q [] s = .ok () :=
  authorise_yes [] s (by omega) (by rw [h]; decide)

theorem restartJobsRule_ok {q : Request} (s : State) (role : q.role = 0) (kind : q.field 0 1 = 0) :
    restartJobsRule q s = .ok { state := s.restartJobs, body := .restarted .jobs } := by
  simp [restartJobsRule, authorise_restart s role, kind]

theorem restartAllRule_ok {q : Request} (s : State) (role : q.role = 0) (kind : q.field 0 1 = 1) :
    restartAllRule q s = .ok { state := s.restartAll, body := .restarted .all } := by
  simp [restartAllRule, authorise_restart s role, kind]

/-- A command whose turn has come, carried out by a rule that accepts. -/
theorem serve_ok {s t : State} {q : Request} {rest : List Request} {mine : Request → Bool} {rule : Rule} {b : ReplyBody}
    (running : s.resetHeld = false) (front : s.requests = q :: rest) (hm : mine q = true)
    (h : rule q (s.leaving rest) = .ok { state := t, body := b }) :
    (.next (s.serve mine rule) : Host.Outcome State Fault Refusal) = .next (t.reply q (.ok b)) := by
  rw [State.serve_front rule running front hm, State.carryOut_ok h]; rfl

/-- Settles O14: `State.restartJobs` field by field, and `State.restartAll` as it stands. -/
theorem restartsClearWhatTheyName : Obligations.RestartsClearWhatTheyName := by
  intro s q rest turn role
  refine ⟨fun body => ?jobs, fun body => ?all⟩
  case all =>
    have kind : q.field 0 1 = 1 := Request.field_first body
    exact serve_ok (mine := fun q => q.isRestart 0) turn.running turn.front
      (by simp [Request.isRestart, turn.kind, kind]) (restartAllRule_ok (s.leaving rest) role kind)
  case jobs =>
    have kind : q.field 0 1 = 0 := Request.field_first body
    refine ⟨(s.leaving rest).restartJobs, serve_ok (mine := fun q => q.isRestart 1) turn.running turn.front
      (by simp [Request.isRestart, turn.kind, kind]) (restartJobsRule_ok (s.leaving rest) role kind), rfl,
      fun hj hg slot => State.restartJobs_generation (s := s.leaving rest) hj hg slot, ?users, ?tenants, ?stations, ?links,
      State.restartJobs_riser (s.leaving rest), State.restartJobs_eq _⟩
    all_goals
      intro n
      rw [State.restartJobs_eq]
      exact Table.fetch_mapRecords _ _ _

/-! ### Settings -/

/-- Role 0 may issue every kind (R7). -/
theorem authorise_operator {q : Request} (h : q.role = 0) (k : Kind) (bound : List Binding) (s : State) :
    authorise k q bound s = .ok () :=
  authorise_yes bound s (by omega) (by rw [h]; cases k <;> decide)

theorem Request.field_byte {q : Request} {off : Nat} {b : Byte} (h : q.body[off]? = some b) : q.field off 1 = b.toNat := by
  obtain ⟨hl, hb⟩ := List.getElem?_eq_some_iff.1 h
  have : (q.body.drop off).take 1 = [b] := by rw [List.drop_eq_getElem_cons hl, hb]; rfl
  simp [Request.field, this, bytesToNat]

theorem setRatesRule_ok {q : Request} (s : State) {a b c d e f g h i : Byte} (role : q.role = 0)
    (body : q.body = [a, b, c, d, e, f, g, h, i]) (h1 : a.toNat ≤ b.toNat) (h2 : d.toNat ≤ e.toNat)
    (h3 : g.toNat ≤ h.toNat) :
    setRatesRule q s = .ok { state := { s with rates :=
      ⟨⟨a.toNat, b.toNat, c.toNat⟩, ⟨d.toNat, e.toNat, f.toNat⟩, ⟨g.toNat, h.toNat, i.toNat⟩⟩ } } := by
  have byte {off : Nat} {x : Byte} (hx : [a, b, c, d, e, f, g, h, i][off]? = some x) : q.field off 1 = x.toNat :=
    Request.field_byte (body ▸ hx)
  have first : q.rates 0 = ⟨a.toNat, b.toNat, c.toNat⟩ := by simp [Request.rates, byte]
  have second : q.rates 3 = ⟨d.toNat, e.toNat, f.toNat⟩ := by simp [Request.rates, byte]
  have third : q.rates 6 = ⟨g.toNat, h.toNat, i.toNat⟩ := by simp [Request.rates, byte]
  simp [setRatesRule, authorise_operator role, first, second, third, h1, h2, h3]

theorem setPartitionsRule_ok {q : Request} {s : State} {p : Byte} (role : q.role = 0) (body : q.body = [p])
    (hp : p.toNat = 1 ∨ p.toNat = 2 ∨ p.toNat = 4 ∨ p.toNat = 8) (ht : ∀ t ∈ s.tenants, t.2.partition < p.toNat)
    (hj : s.jobs = []) :
    setPartitionsRule q s = .ok { state := { s with partitions := p.toNat } } := by
  have byte : q.field 0 1 = p.toNat := Request.field_first body
  have size : [1, 2, 4, 8].contains p.toNat = true := by
    rcases hp with h | h | h | h <;> rw [h] <;> rfl
  have room : s.tenants.any (fun t => decide (p.toNat ≤ t.2.partition)) = false := by
    simpa using fun n t hm => ht (n, t) hm
  simp only [setPartitionsRule, authorise_operator role, byte, size, room, hj, List.isEmpty_nil]
  rfl

theorem setReleaseTimingRule_ok {q : Request} (s : State) {a b : Byte} (role : q.role = 0) (body : q.body = [a, b])
    (h1 : 1 ≤ a.toNat) (h2 : a.toNat ≤ 120) (h3 : 1 ≤ b.toNat) (h4 : b.toNat ≤ 240) :
    setReleaseTimingRule q s = .ok { state := { s with startWindow := a.toNat, abandonWindow := b.toNat },
                                     body := .timing a.toNat b.toNat } := by
  simp [setReleaseTimingRule, authorise_operator role, Request.field_first body, Request.field_second body, inRange, h1,
    h2, h3, h4]

theorem optionAll_carried {m i v : Nat} {p : Nat → Bool} (h : m.testBit i = true → p v = true) :
    optionAll (carried m i v) p = true := by
  unfold carried
  split
  · exact h ‹_›
  · rfl

/-- A carried field writes its value, and one that is not carried leaves the old one. -/
theorem carried_getD (m i v old : Nat) : (carried m i v).getD old = if m.testBit i then v else old := by
  unfold carried; split <;> rfl

theorem policyChangeOf_valid {q : Request}
    (hd : ∀ i, i < 6 → (q.field 0 2).testBit i = true → q.field (2 + i) 1 ≤ 240)
    (ht : ∀ i, i < 3 → (q.field 0 2).testBit (6 + i) = true →
      1 ≤ q.field (8 + 2 * i) 2 ∧ q.field (8 + 2 * i) 2 ≤ 1440) :
    (policyChangeOf q).valid = true := by
  have delay (i : Nat) (hi : i < 6) : optionAll (carried (q.field 0 2) i (q.field (2 + i) 1)) (inRange 0 240) = true :=
    optionAll_carried fun h => by simpa [inRange] using hd i hi h
  have timeout (i : Nat) (hi : i < 3) :
      optionAll (carried (q.field 0 2) (6 + i) (q.field (8 + 2 * i) 2)) (inRange 1 1440) = true :=
    optionAll_carried fun h => by simpa [inRange] using ht i hi h
  simp only [PolicyChange.valid, policyChangeOf, List.all_cons, List.all_nil, Bool.and_true, Bool.and_eq_true]
  exact ⟨⟨delay 0 (by omega), delay 1 (by omega), delay 2 (by omega), delay 3 (by omega), delay 4 (by omega),
    delay 5 (by omega)⟩, timeout 0 (by omega), timeout 1 (by omega), timeout 2 (by omega)⟩

theorem setCalloutPolicyRule_ok {q : Request} {s : State} (role : q.role = 0 ∨ q.role = 1) (hm : q.field 0 2 < 512)
    (valid : (policyChangeOf q).valid = true) :
    setCalloutPolicyRule q s = .ok { state := { s with policy := (policyChangeOf q).apply s.policy },
                                     body := .policy ((policyChangeOf q).apply s.policy) } := by
  have authorised : authorise .setCalloutPolicy q [] s = .ok () :=
    authorise_yes [] s (by omega) (by rcases role with h | h <;> rw [h] <;> decide)
  simp [setCalloutPolicyRule, authorised, valid, hm]

/-- Settles O23: each of the four rules writes its settings alone. -/
theorem settingsAreWrittenWhole : Obligations.SettingsAreWrittenWhole := by
  refine ⟨?rates, ?partitions, ?timing, ?policy⟩
  case rates =>
    intro s q rest a b c d e f g h i turn role body h1 h2 h3
    exact onRequest_ok turn (setRatesRule_ok (s.leaving rest) role body h1 h2 h3)
  case partitions =>
    intro s q rest p turn role body hp ht hj
    exact onRequest_ok turn (setPartitionsRule_ok (s := s.leaving rest) role body hp ht hj)
  case timing =>
    intro s q rest a b turn role body h1 h2 h3 h4
    exact onRequest_ok turn (setReleaseTimingRule_ok (s.leaving rest) role body h1 h2 h3 h4)
  case policy =>
    intro s q rest m p turn role mask hm hd ht hp
    subst mask
    have written : p = (policyChangeOf q).apply s.policy := by
      simp only [hp, PolicyChange.apply, policyChangeOf, carried_getD]
    rw [written]
    exact onRequest_ok turn (setCalloutPolicyRule_ok (s := s.leaving rest) role hm (policyChangeOf_valid hd ht))

end Sys2Proof.Machine
end

section
/-! The tenant and user tables (O15 to O20): what an accepted request writes, and what it answers. -/

namespace Sys2Proof.Machine

/-! ### Tables and carried fields -/

theorem Table.keep_eq_filter {α : Type} (p : Nat → α → Bool) (t : Table α) :
    t.keep p = t.filter (fun x => p x.1 x.2) := by
  induction t with
  | nil => rfl
  | cons x t ih =>
    obtain ⟨k, v⟩ := x
    simp only [Table.keep, List.filter_cons, ih]

theorem Table.count_eq {α : Type} (p : Nat → α → Bool) (t : Table α) :
    t.count p = (t.filter (fun x => p x.1 x.2)).length := by rw [Table.count, Table.keep_eq_filter]

theorem Table.fetch_of_has {α : Type} {t : Table α} {n : Nat} (h : t.has n = true) : ∃ a, t.fetch n = some a :=
  Option.isSome_iff_exists.1 h

/-- The lowest free number is the one below which all are taken. -/
theorem Table.firstFree_eq {α : Type} {t : Table α} (hs : t.Sorted) {n : Nat} (free : t.has n = false)
    (below : ∀ k, k < n → t.has k = true) : t.firstFree 0 = n := by
  obtain ⟨_, none, taken⟩ := Table.firstFree_spec hs 0
  rcases Nat.lt_trichotomy (t.firstFree 0) n with h | h | h
  · have := below _ h
    rw [Table.has, none] at this; cases this
  · exact h
  · have := taken n (Nat.zero_le _) h
    rw [Table.has, this] at free; cases free

theorem carried_map_getD {α : Type} (f : Nat → α) (m i v : Nat) (old : α) :
    ((carried m i v).map f).getD old = if m.testBit i then f v else old := by
  unfold carried; split <;> rfl

theorem carried_isSome (m i v : Nat) : (carried m i v).isSome = m.testBit i := by
  unfold carried; split <;> simp_all

/-- One tenant's record is written. -/
def State.writeTenant (s : State) (n : Nat) (t : Tenant) : State := { s with tenants := s.tenants.put n t }

/-- One user's record is written. -/
def State.writeUser (s : State) (n : Nat) (u : User) : State := { s with users := s.users.put n u }

/-! ### PUT TENANT -/

theorem tenantChangeOf_apply (q : Request) (t : Tenant) :
    (tenantChangeOf q).apply t = { t with
      quotaMode := if (q.field 1 2).testBit 0 then modeOf (q.field 3 1) else t.quotaMode
      allowance := if (q.field 1 2).testBit 1 then q.field 4 4 else t.allowance
      grace := if (q.field 1 2).testBit 2 then q.field 8 4 else t.grace
      warnPercent := if (q.field 1 2).testBit 3 then q.field 12 1 else t.warnPercent
      jobLimit := if (q.field 1 2).testBit 4 then q.field 13 1 else t.jobLimit
      releaseDepth := if (q.field 1 2).testBit 5 then q.field 14 1 else t.releaseDepth
      holdMinutes := if (q.field 1 2).testBit 6 then q.field 15 2 else t.holdMinutes
      partition := if (q.field 1 2).testBit 7 then q.field 17 1 else t.partition
      suppliesMode := if (q.field 1 2).testBit 8 then modeOf (q.field 18 1) else t.suppliesMode
      suppliesAllowance := if (q.field 1 2).testBit 9 then q.field 19 2 else t.suppliesAllowance
      leadCover := if (q.field 1 2).testBit 10 then q.field 21 1 else t.leadCover
      floorPercent := if (q.field 1 2).testBit 11 then q.field 22 1 else t.floorPercent
      commitWindow := if (q.field 1 2).testBit 12 then q.field 23 1 else t.commitWindow } := by
  simp only [TenantChange.apply, tenantChangeOf, carried_getD, carried_map_getD]

/-- A change that carries none of the fields kept from role 2 (R10). -/
theorem tenantChangeOf_unrestricted {q : Request}
    (h : ∀ i ∈ [0, 1, 2, 7, 8, 9], (q.field 1 2).testBit i = false) : (tenantChangeOf q).restricted = false := by
  simp only [TenantChange.restricted, tenantChangeOf, carried_isSome]
  simp [h]

theorem putTenantRule_ok {q : Request} {s : State} (ha : authorise .putTenant q [s.bindTenant (q.field 0 1)] s = .ok ())
    (role : q.role ≠ 0 → s.tenants.has (q.field 0 1) = true ∧
      ∀ i ∈ [0, 1, 2, 7, 8, 9], (q.field 1 2).testBit i = false)
    (hn : q.field 0 1 < 32) (hm : q.field 1 2 < 8192) (valid : (tenantChangeOf q).valid s.partitions = true)
    (may : s.tenantMayBecome (q.field 0 1) (s.tenantOf (q.field 0 1))
      ((tenantChangeOf q).apply (s.tenantOf (q.field 0 1))) = true) :
    let t := s.writeTenant (q.field 0 1) ((tenantChangeOf q).apply (s.tenantOf (q.field 0 1)))
    putTenantRule q s = .ok { state := t, body := t.tenantBody (q.field 0 1) } := by
  have permitted : (decide (q.role = 0) || !(tenantChangeOf q).restricted) = true := by
    by_cases h : q.role = 0
    · simp [h]
    · simp [tenantChangeOf_unrestricted (role h).2]
  have present : (decide (q.role = 0) || s.tenants.has (q.field 0 1)) = true := by
    by_cases h : q.role = 0
    · simp [h]
    · simp [(role h).1]
  have range : (decide (q.field 0 1 < Config.tenantCount) && decide (q.field 1 2 < 2 ^ 13) &&
      (tenantChangeOf q).valid s.partitions) = true := by
    simp [valid, hm, show q.field 0 1 < Config.tenantCount from hn]
  simp only [putTenantRule, ha, permitted, present, range, may, require_true, except_bind_ok]
  rfl

/-- Settles O15: the record written is the change applied to the record found, or to the defaults. -/
theorem putTenantWritesCarriedFields : Obligations.PutTenantWritesCarriedFields := by
  intro s q rest n m old new turn hn hm ha role hn32 hm13 valid hold may hnew
  subst hn hm
  obtain rfl : new = (tenantChangeOf q).apply old := by rw [hnew, tenantChangeOf_apply]
  subst hold
  have accepted := putTenantRule_ok (s := s.leaving rest) ha role hn32 hm13 valid may
  exact ⟨_, _, onRequest_ok turn accepted, Table.fetch_put_same _ _ _, fun k hk => Table.fetch_put_other _ _ hk⟩

/-! ### Reads -/

theorem Terms.reported_eq (q : Terms) (a : Account) :
    q.reported a =
      if q.mode = .limited then some ((q.allowance : Int) + q.grace - a.used - a.reserved) else none := by
  unfold Terms.reported
  split
  case h_1 h => simp [h, Terms.remaining]
  case h_2 h => simp [h]

theorem getTenantRule_ok {q : Request} {s : State} {t : Tenant}
    (ha : authorise .getTenant q [s.bindTenant (q.field 0 1)] s = .ok ()) (hn : q.field 0 1 < 32)
    (ht : s.tenants.fetch (q.field 0 1) = some t) :
    getTenantRule q s = .ok { state := s, body := s.tenantBody (q.field 0 1) } := by
  have present : s.tenants.has (q.field 0 1) = true := by simp [Table.has, ht]
  simp only [getTenantRule, ha, present, decide_eq_true (show q.field 0 1 < Config.tenantCount from hn), require_true,
    except_bind_ok]

theorem State.tenantBody_eq {s : State} {n : Nat} {t : Tenant} (ht : s.tenants.fetch n = some t) :
    s.tenantBody n = .tenant t
      (if t.quotaMode = Mode.limited then
        some ((t.allowance : Int) + t.grace - t.account.used - t.account.reserved) else none)
      (s.users.filter (fun p => p.2.tenant = n)).length (s.stations.filter (fun p => p.2.owner = n)).length := by
  simp only [State.tenantBody, State.tenantOf, ht, Option.getD_some, Terms.reported_eq, Table.count_eq]
  rfl

theorem State.userBody_eq (s : State) (u : User) :
    s.userBody u = .user u
      (if u.quotaMode = Mode.limited then
        some ((u.allowance : Int) + u.grace - u.account.used - u.account.reserved) else none)
      (u.allowance * (s.tenantOf u.tenant).warnPercent / 100) := by
  simp only [State.userBody, Terms.reported_eq]
  rfl

theorem getUserRule_ok {q : Request} {s : State} {u : User}
    (ha : authorise .getUser q [s.bindUser (q.field 0 2)] s = .ok ()) (hn : q.field 0 2 < 4096)
    (hu : s.users.fetch (q.field 0 2) = some u) : getUserRule q s = .ok { state := s, body := s.userBody u } := by
  simp only [getUserRule, ha, hu, decide_eq_true (show q.field 0 2 < Config.userCount from hn), require_true,
    demand_some, except_bind_ok]

theorem findBadgeRule_ok {q : Request} {s : State} {p : Nat × User}
    (ha : authorise .findBadge q [s.bindBadge (q.field 0 4)] s = .ok ()) (hb : q.field 0 4 ≠ 0)
    (hp : s.users.find? (fun p => p.2.badge = q.field 0 4) = some p) :
    findBadgeRule q s = .ok { state := s, body := .userNumber p.1 } := by
  have holder : s.badgeHolder (q.field 0 4) = some p := by simp only [State.badgeHolder, if_neg hb]; exact hp
  simp [findBadgeRule, ha, hb, holder]

/-- Settles O16. -/
theorem tableReadsAnswerAndChangeNothing : Obligations.TableReadsAnswerAndChangeNothing := by
  refine ⟨fun s q rest n t turn hn ha hn32 ht => ?tenant, fun s q rest n u turn hn ha hn12 hu => ?user,
    fun s q rest n u turn ha hb hp => onRequest_ok turn (findBadgeRule_ok (s := s.leaving rest) ha hb hp)⟩
  case tenant =>
    subst hn
    rw [← State.tenantBody_eq ht]
    exact onRequest_ok turn (getTenantRule_ok (s := s.leaving rest) ha hn32 ht)
  case user =>
    subst hn
    rw [← State.userBody_eq]
    exact onRequest_ok turn (getUserRule_ok (s := s.leaving rest) ha hn12 hu)

/-! ### REMOVE TENANT -/

theorem State.tenantUnused_of {s : State} {n : Nat} (hu : ∀ p ∈ s.users, p.2.tenant ≠ n)
    (hx : ∀ p ∈ s.stations, p.2.owner ≠ n) (hr : ∀ r ∈ s.reorders, r.tenant ≠ n) : s.tenantUnused n = true := by
  simp only [State.tenantUnused, Bool.and_eq_true, Bool.not_eq_true', List.any_eq_false, decide_eq_true_eq]
  exact ⟨⟨hu, hx⟩, hr⟩

theorem removeTenantRule_ok {q : Request} {s : State} (role : q.role = 0) (hn : q.field 0 1 < 32) (h0 : q.field 0 1 ≠ 0)
    (present : s.tenants.has (q.field 0 1) = true) (unused : s.tenantUnused (q.field 0 1) = true) :
    removeTenantRule q s = .ok { state := s.removeTenant (q.field 0 1) } := by
  simp [removeTenantRule, authorise_operator role, show q.field 0 1 < Config.tenantCount from hn, h0, present, unused]

/-- Settles O17. -/
theorem removeTenantLeavesNoTrace : Obligations.RemoveTenantLeavesNoTrace := by
  intro s q rest n turn role hn hn32 h0 sorted present hu hx hr
  subst hn
  exact ⟨_, _,
    onRequest_ok turn (removeTenantRule_ok (s := s.leaving rest) role hn32 h0 present (State.tenantUnused_of hu hx hr)),
    Table.fetch_remove_same sorted _, fun k hk => Table.fetch_remove_other _ hk, fun st => Table.fetch_mapRecords _ _ _⟩

/-! ### ENROL USER -/

/-- The quota fields and colour permission that an ENROL USER body carries (10.7.3). -/
def enrolChange (q : Request) : UserChange :=
  { quotaMode := carried (q.field 5 1) 0 (q.field 6 1)
    allowance := carried (q.field 5 1) 1 (q.field 7 4)
    grace := carried (q.field 5 1) 2 (q.field 11 3)
    colourPermitted := carried (q.field 5 1) 3 (q.field 14 1) }

theorem enrolUserRule_ok {q : Request} {s : State} (ha : authorise .enrolUser q [.tenant (q.field 4 1)] s = .ok ())
    (hb : q.field 0 4 ≠ 0) (ht : q.field 4 1 < 32) (hm : q.field 5 1 < 16) (valid : (enrolChange q).valid = true)
    (present : s.tenants.has (q.field 4 1) = true) (free : s.badgeTaken (q.field 0 4) Config.userCount = false)
    (room : s.users.firstFree 0 < 4096) :
    let u := (enrolChange q).apply { badge := q.field 0 4, tenant := q.field 4 1 }
    enrolUserRule q s = .ok
      { state := s.writeUser (s.users.firstFree 0) u, body := .userNumber (s.users.firstFree 0) } := by
  have range : (decide (q.field 0 4 ≠ 0) && decide (q.field 4 1 < Config.tenantCount) && decide (q.field 5 1 < 2 ^ 4) &&
      (enrolChange q).valid) = true := by
    simp [hb, hm, valid, show q.field 4 1 < Config.tenantCount from ht]
  simp only [enrolChange] at range ⊢
  simp only [enrolUserRule, ha, range, present, free, decide_eq_true (show s.users.firstFree 0 < Config.userCount from room),
    Bool.not_false, require_true, except_bind_ok]
  rfl

theorem State.badgeTaken_false {s : State} {badge n : Nat} (h : ∀ p ∈ s.users, p.2.badge = badge → p.1 = n) :
    s.badgeTaken badge n = false := by
  simp only [State.badgeTaken, List.any_eq_false, Bool.and_eq_true, decide_eq_true_eq, not_and, not_not]
  exact h

/-- Settles O18: the lowest free number is `n`, and the change is applied to a record of defaults. -/
theorem enrolUserFillsLowestEmptyRecord : Obligations.EnrolUserFillsLowestEmptyRecord := by
  intro s q rest n badge t m turn hbadge ht hm ha sorted hb ht32 hm4 present hmode hallowance hgrace hcolour free room
    empty below
  subst hbadge ht hm
  have lowest : s.users.firstFree 0 = n := Table.firstFree_eq sorted empty below
  have valid : (enrolChange q).valid = true := by
    simp only [UserChange.valid, enrolChange, Bool.and_eq_true]
    exact ⟨⟨⟨optionAll_carried fun h => by simpa [inRange] using hmode h,
      optionAll_carried fun h => by simpa [inRange] using hallowance h⟩,
      optionAll_carried fun h => by simpa [inRange] using hgrace h⟩,
      optionAll_carried fun h => by simpa [inRange] using hcolour h⟩
  subst lowest
  have accepted := enrolUserRule_ok (s := s.leaving rest) ha hb ht32 hm4 valid present
    (State.badgeTaken_false fun p hp hpb => absurd hpb (free p hp)) room
  refine ⟨_, onRequest_ok turn accepted, ?_, fun k hk => Table.fetch_put_other _ _ hk⟩
  refine (Table.fetch_put_same s.users _ _).trans ?_
  simp only [UserChange.apply, enrolChange, carried_getD, carried_map_getD]

/-! ### AMEND USER -/

/-- The fields of a record that an AMEND USER body carries (10.7.3), written. -/
def amendedUser (q : Request) (u : User) : User :=
  UserChange.apply
    { quotaMode := carried (q.field 2 1) 2 (q.field 8 1)
      allowance := carried (q.field 2 1) 3 (q.field 9 4)
      grace := carried (q.field 2 1) 4 (q.field 13 3)
      colourPermitted := carried (q.field 2 1) 5 (q.field 16 1) }
    { u with
      badge := (carried (q.field 2 1) 0 (q.field 3 4)).getD u.badge
      tenant := (carried (q.field 2 1) 1 (q.field 7 1)).getD u.tenant }

theorem amendedUser_eq (q : Request) (u : User) :
    amendedUser q u = { u with
      badge := if (q.field 2 1).testBit 0 then q.field 3 4 else u.badge
      tenant := if (q.field 2 1).testBit 1 then q.field 7 1 else u.tenant
      quotaMode := if (q.field 2 1).testBit 2 then modeOf (q.field 8 1) else u.quotaMode
      allowance := if (q.field 2 1).testBit 3 then q.field 9 4 else u.allowance
      grace := if (q.field 2 1).testBit 4 then q.field 13 3 else u.grace
      colourPermitted := if (q.field 2 1).testBit 5 then flagOf (q.field 16 1) else u.colourPermitted } := by
  simp only [amendedUser, UserChange.apply, carried_getD, carried_map_getD]

theorem carried_tenant (m i v : Nat) :
    ((carried m i v).map Binding.tenant).toList = if m.testBit i then [Binding.tenant v] else [] := by
  unfold carried; split <;> rfl

theorem amendUserRule_ok {q : Request} {s : State} {u : User}
    (ha : authorise .amendUser q (s.bindUser (q.field 0 2) ::
      (if (q.field 2 1).testBit 1 then [.tenant (q.field 7 1)] else [])) s = .ok ())
    (hn : q.field 0 2 < 4096) (hm : q.field 2 1 < 64) (hu : s.users.fetch (q.field 0 2) = some u)
    (hbadge : (q.field 2 1).testBit 0 = true → q.field 3 4 ≠ 0 ∧ s.badgeTaken (q.field 3 4) (q.field 0 2) = false)
    (htenant : (q.field 2 1).testBit 1 = true → q.field 7 1 < 32 ∧ s.tenants.has (q.field 7 1) = true ∧
      (q.field 7 1 = u.tenant ∨ u.jobCount = 0))
    (hmode : (q.field 2 1).testBit 2 = true → q.field 8 1 ≤ 1)
    (hallowance : (q.field 2 1).testBit 3 = true → q.field 9 4 ≤ 100000000)
    (hgrace : (q.field 2 1).testBit 4 = true → q.field 13 3 ≤ 1000000)
    (hcolour : (q.field 2 1).testBit 5 = true → q.field 16 1 ≤ 1) :
    let t := s.writeUser (q.field 0 2) (amendedUser q u)
    amendUserRule q s = .ok { state := t, body := t.userBody (amendedUser q u) } := by
  have badge : optionAll (carried (q.field 2 1) 0 (q.field 3 4)) (fun b => decide (b ≠ 0)) = true :=
    optionAll_carried fun h => by simpa using (hbadge h).1
  have tenant : optionAll (carried (q.field 2 1) 1 (q.field 7 1)) (fun t => decide (t < Config.tenantCount)) = true :=
    optionAll_carried fun h => decide_eq_true (htenant h).1
  have mode : optionAll (carried (q.field 2 1) 2 (q.field 8 1)) (inRange 0 1) = true :=
    optionAll_carried fun h => by simpa [inRange] using hmode h
  have allowance : optionAll (carried (q.field 2 1) 3 (q.field 9 4)) (inRange 0 100000000) = true :=
    optionAll_carried fun h => by simpa [inRange] using hallowance h
  have grace : optionAll (carried (q.field 2 1) 4 (q.field 13 3)) (inRange 0 1000000) = true :=
    optionAll_carried fun h => by simpa [inRange] using hgrace h
  have colour : optionAll (carried (q.field 2 1) 5 (q.field 16 1)) (inRange 0 1) = true :=
    optionAll_carried fun h => by simpa [inRange] using hcolour h
  have present : optionAll (carried (q.field 2 1) 1 (q.field 7 1)) s.tenants.has = true :=
    optionAll_carried fun h => (htenant h).2.1
  have free : optionAll (carried (q.field 2 1) 0 (q.field 3 4)) (fun b => !s.badgeTaken b (q.field 0 2)) = true :=
    optionAll_carried fun h => by simp [(hbadge h).2]
  have idle : optionAll (carried (q.field 2 1) 1 (q.field 7 1)) (fun t => decide (t = u.tenant) || decide (u.jobCount = 0)) =
      true :=
    optionAll_carried fun h => by simpa using (htenant h).2.2
  simp only [amendUserRule, carried_tenant, ha, UserChange.valid, badge, tenant, mode, allowance, grace, colour, present,
    free, idle, hu, decide_eq_true (show q.field 0 2 < Config.userCount from hn),
    decide_eq_true (show q.field 2 1 < 2 ^ 6 from hm), Bool.and_self, require_true, demand_some, except_bind_ok]
  rfl

/-- Settles O19. -/
theorem amendUserWritesCarriedFields : Obligations.AmendUserWritesCarriedFields := by
  intro s q rest n m u turn hn hm ha hn12 hm6 hu hbadge htenant hmode hallowance hgrace hcolour
  subst hn hm
  have accepted := amendUserRule_ok (s := s.leaving rest) ha hn12 hm6 hu
    (fun h => ⟨(hbadge h).1, State.badgeTaken_false (hbadge h).2⟩) htenant hmode hallowance hgrace hcolour
  rw [← amendedUser_eq]
  exact ⟨_, _, onRequest_ok turn accepted, Table.fetch_put_same _ _ _, fun k hk => Table.fetch_put_other _ _ hk⟩

/-! ### SUSPEND USER and REINSTATE USER -/

theorem userStateRule_ok {k : Kind} {x : UserState} {q : Request} {s : State}
    (ha : authorise k q [s.bindUser (q.field 0 2)] s = .ok ()) (hn : q.field 0 2 < 4096)
    (present : s.users.has (q.field 0 2) = true) :
    userStateRule k x q s =
      .ok { state := { s with users := s.users.update (q.field 0 2) (fun u => { u with state := x }) } } := by
  simp [userStateRule, ha, present, show q.field 0 2 < Config.userCount from hn]

/-- Settles O20: one rule serves both requests. -/
theorem suspendAndReinstateWriteState : Obligations.SuspendAndReinstateWriteState := by
  refine ⟨fun s q rest n turn hn ha hn12 present => ?_, fun s q rest n turn hn ha hn12 present => ?_⟩
  all_goals
    subst hn
    exact ⟨_, onRequest_ok turn (userStateRule_ok (s := s.leaving rest) ha hn12 present), Table.fetch_update_same _ _ _,
      fun k hk => Table.fetch_update_other _ _ hk⟩

end Sys2Proof.Machine
end

section
/-! REMOVE USER (O21) and ADJUST ACCOUNT (O22). -/

namespace Sys2Proof.Machine

/-! ### REMOVE USER -/

/-- Nothing has changed but the users, the jobs, the generations and the notice queue: what deletions may change. -/
def State.DeletesOnly (s t : State) : Prop :=
  t = { s with
    users := t.users, jobs := t.jobs, generations := t.generations, notices := t.notices, lost := t.lost }

theorem State.DeletesOnly.trans {s t u : State} (h : s.DeletesOnly t) (k : t.DeletesOnly u) : s.DeletesOnly u := by
  unfold State.DeletesOnly at h k ⊢
  rw [k, h]

/-- The deletion of a job, field by field. -/
theorem State.deleteJob_eq (s : State) (j : Job) :
    s.deleteJob j = { s with
      jobs := s.jobs.remove (j.handle / 256)
      users := s.users.update j.owner
        (fun u => { u with owned := u.owned.erase j.handle, jobCount := u.jobCount - 1 })
      generations := (s.deleteJob j).generations } := rfl

/-- A user's handle that still names a job of the user, or whose slot has been freed. -/
def State.OwnedOrFreed (s : State) (n h : Nat) : Prop :=
  (∃ j, s.jobNamed h = some j ∧ j.handle = h ∧ j.owner = n) ∨ s.jobs.fetch (h / 256) = none

theorem State.jobNamed_of_free {s : State} {h : Nat} (free : s.jobs.fetch (h / 256) = none) : s.jobNamed h = none := by
  simp [State.jobNamed, free]

theorem State.deleteOfRemoved_named {s : State} {h : Nat} {j : Job} (hj : s.jobNamed h = some j) :
    s.deleteOfRemoved h = (s.deleteJob j).notify (.jobDeleted j.handle j.owner j.spoolRef .userRemoved) := by
  simp [State.deleteOfRemoved, hj]

theorem State.deleteOfRemoved_free {s : State} {h : Nat} (free : s.jobs.fetch (h / 256) = none) :
    s.deleteOfRemoved h = s := by
  simp [State.deleteOfRemoved, State.jobNamed_of_free free]

/-- What deleting some of user `n`'s jobs leaves. -/
structure State.Removes (s t : State) (n : Nat) (hs : List Nat) : Prop where
  frame  : s.DeletesOnly t
  users  : ∀ k, k ≠ n → t.users.fetch k = s.users.fetch k
  order  : s.users.Sorted → t.users.Sorted
  sorted : s.jobs.Sorted → t.jobs.Sorted
  freed  : s.jobs.Sorted → ∀ h ∈ hs, t.jobs.fetch (h / 256) = none
  kept   : ∀ slot, (∀ h ∈ hs, h / 256 ≠ slot) → t.jobs.fetch slot = s.jobs.fetch slot
  gone   : s.jobs.Sorted → ∀ slot, s.jobs.fetch slot = none → t.jobs.fetch slot = none
  named  : ∀ k, (∀ h ∈ hs, h / 256 ≠ k / 256) → t.jobNamed k = s.jobNamed k

theorem State.setGeneration_other {s : State} {n m : Nat} (g : Nat) (h : m ≠ n) :
    (s.setGeneration n g).generation m = s.generation m := by
  unfold State.setGeneration State.generation
  dsimp only
  split
  · rw [Table.fetch_remove_other _ h]
  · rw [Table.fetch_put_other _ _ h]

theorem State.jobNamed_congr {s t : State} {h : Nat} (hj : t.jobs.fetch (h / 256) = s.jobs.fetch (h / 256))
    (hg : t.generation (h / 256) = s.generation (h / 256)) : t.jobNamed h = s.jobNamed h := by
  unfold State.jobNamed
  rw [hj, hg]

theorem State.deleteJob_jobNamed_other {s : State} {j : Job} {h : Nat} (hh : h / 256 ≠ j.handle / 256) :
    (s.deleteJob j).jobNamed h = s.jobNamed h :=
  State.jobNamed_congr (Table.fetch_remove_other _ hh) (State.setGeneration_other _ hh)

theorem State.notify_jobNamed (s : State) (b : NoticeBody) (h : Nat) : (s.notify b).jobNamed h = s.jobNamed h :=
  State.jobNamed_congr (by simp) (by simp [State.generation])

theorem State.deleteOfRemoved_removes {s : State} {n h : Nat} (own : s.OwnedOrFreed n h) :
    s.Removes (s.deleteOfRemoved h) n [h] := by
  rcases own with ⟨j, hj, hh, ho⟩ | free
  · subst hh
    rw [State.deleteOfRemoved_named hj]
    refine
      { frame := ?_
        users := fun k hk => ?_
        order := fun hs => ?_
        sorted := fun hs => ?_
        freed := fun hs => ?_
        kept := fun slot hs => ?_
        gone := fun hs slot hf => ?_
        named := fun k hk => ?_ }
    · unfold State.DeletesOnly
      rw [State.notify_eq]; rfl
    · rw [State.notify_users]
      exact Table.fetch_update_other _ _ (ho ▸ hk)
    · rw [State.notify_users]
      exact Table.sorted_update hs _ _
    · rw [State.notify_jobs]
      exact Table.sorted_remove hs _
    · simp only [List.mem_singleton, forall_eq, State.notify_jobs]
      exact Table.fetch_remove_same hs _
    · rw [State.notify_jobs]
      exact Table.fetch_remove_other _ (Ne.symm (hs _ List.mem_cons_self))
    · rw [State.notify_jobs]
      by_cases he : slot = j.handle / 256
      · rw [he]; exact Table.fetch_remove_same hs _
      · exact (Table.fetch_remove_other _ he).trans hf
    · rw [State.notify_jobNamed]
      exact State.deleteJob_jobNamed_other (Ne.symm (hk _ List.mem_cons_self))
  · rw [State.deleteOfRemoved_free free]
    exact ⟨rfl, fun _ _ => rfl, id, id, fun _ k hk => by rw [List.mem_singleton.1 hk]; exact free, fun _ _ => rfl,
      fun _ _ => id, fun _ _ => rfl⟩

theorem State.Removes.cons {s t u : State} {n h : Nat} {hs : List Nat} (a : s.Removes t n [h]) (b : t.Removes u n hs) :
    s.Removes u n (h :: hs) where
  frame := a.frame.trans b.frame
  users k hk := (b.users k hk).trans (a.users k hk)
  order := b.order ∘ a.order
  sorted := b.sorted ∘ a.sorted
  freed sorted k hk := by
    rcases List.mem_cons.1 hk with rfl | hk
    · exact b.gone (a.sorted sorted) _ (a.freed sorted k List.mem_cons_self)
    · exact b.freed (a.sorted sorted) k hk
  kept slot h := by
    rw [List.forall_mem_cons] at h
    exact (b.kept slot h.2).trans (a.kept slot (by simpa using h.1))
  gone sorted slot h := b.gone (a.sorted sorted) slot (a.gone sorted slot h)
  named k h := by
    rw [List.forall_mem_cons] at h
    exact (b.named k h.2).trans (a.named k (by simpa using h.1))

/-- After one deletion the user's other handles still name the user's jobs, or their slots are free. -/
theorem State.OwnedOrFreed.after {s : State} {n h k : Nat} (sorted : s.jobs.Sorted) (own : s.OwnedOrFreed n h)
    (other : s.OwnedOrFreed n k) : (s.deleteOfRemoved h).OwnedOrFreed n k := by
  have removed := State.deleteOfRemoved_removes own
  by_cases he : h / 256 = k / 256
  · exact .inr (he ▸ removed.freed sorted h List.mem_cons_self)
  · rcases other with ⟨j, hj, hk⟩ | free
    · exact .inl ⟨j, (removed.named k (by simpa using he)).trans hj, hk⟩
    · exact .inr (removed.gone sorted _ free)

theorem State.deleteOfRemoved_foldl {s : State} {n : Nat} {hs : List Nat} (sorted : s.jobs.Sorted)
    (own : ∀ h ∈ hs, s.OwnedOrFreed n h) : s.Removes (hs.foldl State.deleteOfRemoved s) n hs := by
  induction hs generalizing s with
  | nil => exact ⟨rfl, fun _ _ => rfl, id, id, fun _ _ h => (nomatch h), fun _ _ => rfl, fun _ _ => id, fun _ _ => rfl⟩
  | cons h hs ih =>
    rw [List.forall_mem_cons] at own
    have first := State.deleteOfRemoved_removes own.1
    exact first.cons (ih (first.sorted sorted) fun k hk => own.1.after sorted (own.2 k hk))

theorem removeUserRule_ok {q : Request} {s : State} {u : User}
    (ha : authorise .removeUser q [s.bindUser (q.field 0 2)] s = .ok ()) (hn : q.field 0 2 < 4096)
    (hu : s.users.fetch (q.field 0 2) = some u) (idle : u.owned.any s.isReleased = false) :
    let t := u.owned.foldl State.deleteOfRemoved s
    removeUserRule q s =
      .ok { state := { t with users := t.users.remove (q.field 0 2) }, body := .jobsDeleted u.owned.length } := by
  simp [removeUserRule, ha, hu, idle, show q.field 0 2 < Config.userCount from hn]

/-- Settles O21: the user's jobs are deleted one after another, and then the record goes. -/
theorem removeUserDeletesUnreleasedJobs : Obligations.RemoveUserDeletesUnreleasedJobs := by
  intro s q rest n u turn hn ha hn12 hu husers hjobs owned
  subst hn
  have idle : u.owned.any (s.leaving rest).isReleased = false := by
    rw [List.any_eq_false]
    intro h hh
    obtain ⟨j, hj, _, _, hstate⟩ := owned h hh
    have named : (s.leaving rest).jobNamed h = some j := hj
    rcases hstate with hs | hs <;> simp [State.isReleased, named, hs]
  have accepted := removeUserRule_ok (s := s.leaving rest) ha hn12 hu idle
  have removed := State.deleteOfRemoved_foldl (s := s.leaving rest) (n := q.field 0 2) (hs := u.owned) hjobs fun h hh => by
    obtain ⟨j, hj, hjh, hjo, _⟩ := owned h hh
    exact .inl ⟨j, hj, hjh, hjo⟩
  refine ⟨_, onRequest_ok turn accepted, Table.fetch_remove_same (removed.order husers) _,
    fun k hk => (Table.fetch_remove_other _ hk).trans (removed.users k hk), fun h hh => ?_, removed.kept, ?_⟩
  · exact ⟨removed.freed hjobs h hh, State.jobNamed_of_free (removed.freed hjobs h hh)⟩
  · have frame : _ = _ := removed.frame
    generalize u.owned.foldl State.deleteOfRemoved (s.leaving rest) = t at frame ⊢
    dsimp only
    rw [frame]

/-! ### ADJUST ACCOUNT -/

/-- The account that ADJUST ACCOUNT leaves before the checks (R38). -/
theorem Account.adjust_eq {a : Account} {d : Int} {used : Nat}
    (hu : (used : Int) = max 0 (min 2000000000 ((a.used : Int) + d))) :
    a.adjust d = { a with used := used, saturated := a.saturated || decide (2000000000 < (a.used : Int) + d) } := by
  unfold Account.adjust
  have limit : (Config.maxAccount : Int) = 2000000000 := rfl
  rw [limit]
  split
  case isTrue above =>
    have : used = 2000000000 := by omega
    simp [above, this, Config.maxAccount]
  case isFalse within =>
    have : used = ((a.used : Int) + d).toNat := by omega
    simp [within, this]

/-- The checks of an account on an adjusted used (R35, R36). -/
theorem Terms.checked_eq (q : Terms) (prior : Nat) (a : Account) :
    q.checked prior a = { a with
      warned := a.warned || (decide (q.mode = .limited) && !a.warned && decide (prior < q.warnLevel) &&
        decide (q.warnLevel ≤ a.used))
      stopped := a.stopped || (decide (q.mode = .limited) && !a.stopped && decide (q.allowance + q.grace ≤ a.used)) } := rfl

/-- A flag that is set is not looked at again. -/
theorem or_and_not_and (a m x y : Bool) : (a || (m && !a && x && y)) = (a || (m && x && y)) := by
  cases a <;> simp

theorem or_and_not (a m x : Bool) : (a || (m && !a && x)) = (a || (m && x)) := by
  cases a <;> simp

theorem adjustAccountRule_user {q : Request} {s : State} {u : User} (kind : q.field 0 1 = 0)
    (ha : authorise .adjustAccount q [s.bindUser (q.field 1 2)] s = .ok ()) (hn : q.field 1 2 < 4096)
    (h1 : -2000000000 ≤ q.signedField 3) (h2 : q.signedField 3 ≤ 2000000000)
    (hu : s.users.fetch (q.field 1 2) = some u) :
    adjustAccountRule q s = .ok
      { state := s.checkUser (q.field 1 2) u.account.used u (u.account.adjust (q.signedField 3))
        body := adjustedBody (s.userTerms u) u.account.used (u.account.adjust (q.signedField 3)) } := by
  have low : -(Config.maxAccount : Int) ≤ q.signedField 3 := h1
  have high : q.signedField 3 ≤ (Config.maxAccount : Int) := h2
  simp [adjustAccountRule, kind, State.bindAccount, ha, low, high, hu, show q.field 1 2 < Config.userCount from hn]

theorem adjustAccountRule_tenant {q : Request} {s : State} {t : Tenant} (role : q.role = 0) (kind : q.field 0 1 = 1)
    (hn : q.field 1 2 < 32) (h1 : -2000000000 ≤ q.signedField 3) (h2 : q.signedField 3 ≤ 2000000000)
    (ht : s.tenants.fetch (q.field 1 2) = some t) :
    adjustAccountRule q s = .ok
      { state := s.checkTenant (q.field 1 2) t.account.used t (t.account.adjust (q.signedField 3))
        body := adjustedBody t.terms t.account.used (t.account.adjust (q.signedField 3)) } := by
  have low : -(Config.maxAccount : Int) ≤ q.signedField 3 := h1
  have high : q.signedField 3 ≤ (Config.maxAccount : Int) := h2
  simp [adjustAccountRule, kind, authorise_operator role, low, high, ht, show q.field 1 2 < Config.tenantCount from hn]

/-- The check of an account writes the account and queues notices, and nothing else (R35 to R37). -/
theorem State.checkUser_eq (s : State) (n prior : Nat) (u : User) (a : Account) :
    ∃ ns l, s.checkUser n prior u a = { s with
      users := s.users.update n (fun v => { v with account := (s.userTerms u).checked prior a })
      notices := ns
      lost := l } := ⟨_, _, State.notifyAll_eq _ _⟩

theorem State.checkTenant_eq (s : State) (n prior : Nat) (t : Tenant) (a : Account) :
    ∃ ns l, s.checkTenant n prior t a = { s with
      tenants := s.tenants.update n (fun v => { v with account := t.terms.checked prior a })
      notices := ns
      lost := l } := ⟨_, _, State.notifyAll_eq _ _⟩

/-- Settles O22: the account is adjusted, checked, written, and reported. -/
theorem adjustAccountClampsAndChecks : Obligations.AdjustAccountClampsAndChecks := by
  refine ⟨fun s q rest n used w d u turn kind hn hn12 hd h1 h2 ha hu hused hw => ?user,
    fun s q rest n used w d t turn role kind hn hn5 hd h1 h2 ht hused hw => ?tenant⟩
  case user =>
    subst hn hd hw
    have accepted := adjustAccountRule_user (s := s.leaving rest) kind ha hn12 h1 h2 hu
    have answered := onRequest_ok turn accepted
    rw [Account.adjust_eq hused] at answered
    obtain ⟨ns, l, written⟩ := State.checkUser_eq (s.leaving rest) (q.field 1 2) u.account.used u
      { u.account with
        used := used, saturated := u.account.saturated || decide (2000000000 < (u.account.used : Int) + q.signedField 3) }
    rw [written, adjustedBody, Terms.reported_eq] at answered
    refine ⟨_, ns, l, _, answered, rfl, ?_, fun k hk => Table.fetch_update_other s.users _ hk⟩
    rw [Table.fetch_update_same, show (s.leaving rest).users.fetch (q.field 1 2) = some u from hu, Terms.checked_eq, or_and_not_and, or_and_not]; rfl
  case tenant =>
    subst hn hd hw
    have accepted := adjustAccountRule_tenant (s := s.leaving rest) role kind hn5 h1 h2 ht
    have answered := onRequest_ok turn accepted
    rw [Account.adjust_eq hused] at answered
    obtain ⟨ns, l, written⟩ := State.checkTenant_eq (s.leaving rest) (q.field 1 2) t.account.used t
      { t.account with
        used := used, saturated := t.account.saturated || decide (2000000000 < (t.account.used : Int) + q.signedField 3) }
    rw [written, adjustedBody, Terms.reported_eq] at answered
    refine ⟨_, ns, l, _, answered, rfl, ?_, fun k hk => Table.fetch_update_other s.tenants _ hk⟩
    rw [Table.fetch_update_same, show (s.leaving rest).tenants.fetch (q.field 1 2) = some t from ht, Terms.checked_eq, or_and_not_and, or_and_not]; rfl

end Sys2Proof.Machine
end

section
/-! The held-job store (O24 to O28): placement, COMMIT SPOOL, CANCEL JOB, SPOOL FAULT, and the reads. -/

namespace Sys2Proof.Machine

/-! ### HOLD JOB -/

/-- The slots that a HOLD looks at, by their place in the order (R52). -/
def holdLook (base z home k : Nat) : Nat := base + (if k = 0 then home % z else ((home % z + z / 2) % z + (k - 1)) % z)

theorem placementOffsets_eq (user seq z base : Nat) :
    (placementOffsets user seq z).map (fun f => base + f) = (List.range 8).map (holdLook base z (user * 31 + seq)) := by
  have range : List.range 8 = [0, 1, 2, 3, 4, 5, 6, 7] := rfl
  simp [placementOffsets, holdLook, range]

theorem State.placement_eq (s : State) (user : Nat) (u : User) :
    s.placement user u = ((List.range 8).map (holdLook ((s.tenantOf u.tenant).partition * s.partitionSize)
      s.partitionSize (user * 31 + u.submitSeq))).find? (fun x => !s.jobs.has x) := by
  rw [State.placement, placementOffsets_eq]

theorem State.placement_none {s : State} {user : Nat} {u : User} {look : Nat → Nat}
    (hl : look = holdLook ((s.tenantOf u.tenant).partition * s.partitionSize) s.partitionSize (user * 31 + u.submitSeq))
    (all : ∀ k, k < 8 → s.jobs.has (look k) = true) : s.placement user u = none := by
  rw [State.placement_eq, List.find?_eq_none, ← hl]
  intro x hx
  obtain ⟨k, hk, rfl⟩ := List.mem_map.1 hx
  simp [all k (List.mem_range.1 hk)]

theorem State.placement_first {s : State} {user : Nat} {u : User} {look : Nat → Nat}
    (hl : look = holdLook ((s.tenantOf u.tenant).partition * s.partitionSize) s.partitionSize (user * 31 + u.submitSeq))
    {i : Nat} (hi : i < 8) (before : ∀ k, k < i → s.jobs.has (look k) = true) (free : s.jobs.has (look i) = false) :
    s.placement user u = some (look i) := by
  rw [State.placement_eq, ← hl, List.find?_eq_some_iff_getElem]
  refine ⟨by simp [free], i, by simpa using hi, by simp, fun k hk => ?_⟩
  simp [before k hk]

section
variable {q : Request} {s : State} {u : User}

/-- The body of a HOLD JOB whose fields lie in their ranges (R54). -/
theorem Request.descriptorValid_of (h1 : 1 ≤ q.field 7 2) (h2 : q.field 7 2 ≤ 9999) (h3 : 1 ≤ q.field 9 1)
    (h4 : q.field 9 1 ≤ 99) (h5 : q.field 10 1 = 1 ∨ q.field 10 1 = 2 ∨ q.field 10 1 = 4) (h6 : q.field 11 1 < 8)
    (h7 : q.field 12 1 ≤ 2) : q.descriptorValid 7 = true := by
  have nUp : [1, 2, 4].contains (q.field 10 1) = true := by rcases h5 with h | h | h <;> rw [h] <;> rfl
  simp only [Request.descriptorValid, inRange, Bool.and_eq_true, decide_eq_true_eq]
  exact ⟨⟨⟨⟨⟨h1, h2⟩, h3, h4⟩, nUp⟩, h6⟩, h7⟩

theorem holdJobRule_checks (ha : authorise .holdJob q [s.bindUser (q.field 0 2)] s = .ok ()) (hn : q.field 0 2 < 4096)
    (hc : q.field 6 1 ≤ 1) (valid : q.descriptorValid 7 = true) (hu : s.users.fetch (q.field 0 2) = some u)
    (limit : u.jobCount < (s.tenantOf u.tenant).jobLimit) :
    holdJobRule q s = (do
      let slot ← demand (s.placement (q.field 0 2) u) .storeFull
      let d := q.descriptor 7
      let j := s.heldJob slot (q.field 0 2) u d (q.field 2 4) (flagOf (q.field 6 1))
      .ok { state := s.placeJob slot j
            body := .jobHeld j.handle (tokenOf j.handle) j.holdDeadline (d.colour && !u.colourPermitted) }) := by
  simp [holdJobRule, ha, hc, valid, hu, limit, show q.field 0 2 < Config.userCount from hn]

end

/-- A handle's token, from its slot and generation (R47). -/
theorem tokenOf_handle {slot g : Nat} (hg : g < 256) : tokenOf (slot * 256 + g) = slot * 64 + g % 64 := by
  simp only [tokenOf]
  omega

theorem flagOf_eq {v : Nat} (h : v ≤ 1) : flagOf v = decide (v = 1) := by
  have : v = 0 ∨ v = 1 := by omega
  rcases this with rfl | rfl <;> rfl

theorem sizeClassOf_eq (v : Nat) : sizeClassOf v = if v = 0 then .s else if v = 1 then .l else .e := by
  match v with
  | 0 => rfl
  | 1 => rfl
  | n + 2 => simp [sizeClassOf]

theorem Descriptor.converted_eq (d : Descriptor) (u : User) :
    d.converted u = { d with colour := d.colour && u.colourPermitted } := by
  unfold Descriptor.converted
  cases hc : d.colour <;> cases hu : u.colourPermitted <;> simp [← hc]

/-- Settles O24: the placement is the first free look, and the job is placed in it. -/
theorem holdJobTakesFirstFreeLook : Obligations.HoldJobTakesFirstFreeLook := by
  intro s q rest owner z u look turn howner ha hn hc h1 h2 h3 h4 h5 h6 h7 hu limit hz hlook
  subst howner
  have checks := holdJobRule_checks (s := s.leaving rest) ha hn hc
    (Request.descriptorValid_of h1 h2 h3 h4 h5 h6 h7) hu limit
  have looks : look = holdLook ((s.tenantOf u.tenant).partition * s.partitionSize) s.partitionSize
      (q.field 0 2 * 31 + u.submitSeq) := by
    funext k
    rw [hlook, hz]; rfl
  refine ⟨fun all => ?full, fun i slot j hi before hslot free hg hj => ?placed⟩
  case full =>
    have none : (s.leaving rest).placement (q.field 0 2) u = none := State.placement_none (s := s) looks all
    rw [none, demand_none, except_bind_error] at checks
    exact onRequest_refused turn checks
  case placed =>
    subst hslot
    have some_slot : (s.leaving rest).placement (q.field 0 2) u = some (look i) :=
      State.placement_first (s := s) looks hi before free
    have filled : (s.leaving rest).heldJob (look i) (q.field 0 2) u (q.descriptor 7) (q.field 2 4) (flagOf (q.field 6 1)) =
        j := by
      rw [hj, State.heldJob, Descriptor.converted_eq, flagOf_eq hc]
      simp only [Request.descriptor, sizeClassOf_eq, decide_eq_true_eq]
      rfl
    have token : tokenOf j.handle = look i * 64 + s.generation (look i) % 64 := by rw [hj]; exact tokenOf_handle hg
    have own : j.owner = q.field 0 2 := by rw [hj]
    rw [some_slot, demand_some, except_bind_ok] at checks
    dsimp only at checks
    rw [filled, token] at checks
    refine ⟨_, _, onRequest_ok turn checks, Table.fetch_put_same _ _ _, fun k hk => Table.fetch_put_other _ _ hk, ?_,
      fun k hk => Table.fetch_update_other _ _ (own ▸ hk)⟩
    rw [own, Table.fetch_update_same]
    exact congrArg (Option.map _) hu

/-! ### Jobs named by their handle -/

theorem namedJob_ok {k : Kind} {q : Request} {s : State} {j : Job} (ha : authorise k q [s.bindJob (q.field 0 3)] s = .ok ())
    (hh : q.field 0 3 < 262144) (hj : s.jobNamed (q.field 0 3) = some j) : namedJob k q s = .ok j := by
  simp [namedJob, ha, hj, show q.field 0 3 < Config.slotCount * 256 from hh]

theorem commitSpoolRule_ok {q : Request} {s : State} {j : Job} (h : namedJob .commitSpool q s = .ok j) :
    commitSpoolRule q s = .ok { state := s.commitJob j } := by
  simp [commitSpoolRule, h]

theorem State.updateJob_fetch (s : State) (h : Nat) (f : Job → Job) :
    (s.updateJob h f).jobs.fetch (h / 256) = (s.jobs.fetch (h / 256)).map f := Table.fetch_update_same _ _ _

theorem State.commitJob_unchanged {s : State} {j : Job}
    (h : j.state = .held ∨ j.state = .printing ∨ (j.state = .queued ∧ j.committed = true)) : s.commitJob j = s := by
  rcases h with h | h | ⟨h, hc⟩ <;> simp [State.commitJob, h]
  exact fun hn => absurd hc (by simp [hn])

/-- Settles O25: `State.commitJob` by the job's state. -/
theorem commitSpoolFollowsTheJobState : Obligations.CommitSpoolFollowsTheJobState := by
  intro s q rest h j turn hh ha hrange hj hjh
  subst hh
  have fetched := (State.jobNamed_parts hj).1
  have accepted := onRequest_ok turn (commitSpoolRule_ok (namedJob_ok (s := s.leaving rest) ha hrange hj))
  refine ⟨fun receiving => ?receiving, fun other => ?other, fun c x queued uncommitted charged hx => ?queued⟩
  case receiving =>
    have committed : (s.leaving rest).commitJob j =
        (s.leaving rest).updateJob j.handle (fun j => { j with committed := true, state := .held }) := by
      simp [State.commitJob, receiving]
    rw [committed, hjh] at accepted
    refine ⟨_, accepted, ?_, fun k hk => Table.fetch_update_other s.jobs _ hk⟩
    exact (State.updateJob_fetch s _ _).trans (by rw [fetched]; rfl)
  case other =>
    rw [State.commitJob_unchanged other] at accepted
    exact accepted
  case queued =>
    have committed : (s.leaving rest).commitJob j =
        (((s.leaving rest).updateJob j.handle (fun j => { j with committed := true })).updateEntry c.station j.handle
          (fun e => { e with commitDeadline := none })).sendCheck c.station := by
      simp [State.commitJob, queued, uncommitted, charged]
    rw [committed, hjh] at accepted
    refine ⟨_, _, accepted, ?_, fun k hk => Table.fetch_update_other s.jobs _ hk, ?_,
      fun k hk => Table.fetch_update_other s.stations _ hk⟩
    · exact (State.updateJob_fetch s _ _).trans (by rw [fetched]; rfl)
    · exact (Table.fetch_update_same s.stations _ _).trans (by rw [hx]; rfl)

/-! ### Deletion, CANCEL JOB and SPOOL FAULT -/

theorem Station.hasSentEntry_iff {x : Station} {h : Nat} :
    x.hasSentEntry h = true ↔ ∃ e ∈ x.queue, e.handle = h ∧ e.sub = .sent := by
  simp [Station.hasSentEntry]

theorem State.isSent_eq {s : State} {j : Job} {c : Charging} {x : Station} (hc : j.charging = some c)
    (hx : s.stations.fetch c.station = some x) : s.isSent j = x.hasSentEntry j.handle := by
  simp [State.isSent, hc, hx]

theorem State.isSent_unreleased {s : State} {j : Job} (hc : j.charging = none) : s.isSent j = false := by
  simp [State.isSent, hc]

theorem State.takeOut_unreleased {s : State} {j : Job} (hc : j.charging = none) (b : NoticeBody) :
    s.takeOut j b = (s.deleteJob j).notify b := by
  simp [State.takeOut, hc]

theorem State.takeOut_released {s : State} {j : Job} {c : Charging} (hc : j.charging = some c) (b : NoticeBody) :
    s.takeOut j b = ((((s.removeEntry c.station j.handle).unreserve j.owner j.tenant c.reservation).deleteJob j).notify
      b).sendCheck c.station := by
  simp [State.takeOut, State.releaseReservation, hc]

/-- The deletion of a job (R61). -/
theorem State.deleteJob_spec {s : State} (hj : s.jobs.Sorted) (hg : s.generations.Sorted) (j : Job) :
    (s.deleteJob j).jobs.fetch (j.handle / 256) = none ∧ (s.deleteJob j).jobNamed j.handle = none ∧
    (s.deleteJob j).generation (j.handle / 256) = (s.generation (j.handle / 256) + 1) % 256 := by
  have freed : (s.deleteJob j).jobs.fetch (j.handle / 256) = none := Table.fetch_remove_same hj _
  refine ⟨freed, State.jobNamed_of_free freed, ?_⟩
  exact (State.setGeneration_generation (s := { s with
    jobs := s.jobs.remove (j.handle / 256)
    users := s.users.update j.owner (fun u => { u with owned := u.owned.erase j.handle, jobCount := u.jobCount - 1 }) })
    hg _ _ _).trans (if_pos rfl)

theorem cancelJobRule_again {q : Request} {s : State} {j : Job} (h : namedJob .cancelJob q s = .ok j)
    (hc : j.cancelRequested = true) : cancelJobRule q s = .ok { state := s } := by
  simp [cancelJobRule, h, hc]

theorem cancelJobRule_sent {q : Request} {s : State} {j : Job} (h : namedJob .cancelJob q s = .ok j)
    (hc : j.cancelRequested = false) (sent : s.isSent j = true) :
    cancelJobRule q s = .ok
      { state := (s.updateJob j.handle (fun j => { j with cancelRequested := true })).withdraw
          ((j.charging.map (·.station)).getD 0) j
        accepted := true } := by
  simp [cancelJobRule, h, hc, sent]

theorem cancelJobRule_unsent {q : Request} {s : State} {j : Job} (h : namedJob .cancelJob q s = .ok j)
    (hc : j.cancelRequested = false) (sent : s.isSent j = false) :
    cancelJobRule q s = .ok { state := s.takeOut j (.jobDeleted j.handle j.owner j.spoolRef .cancel) } := by
  simp [cancelJobRule, h, hc, sent]

/-- Settles O26: the deletion, and CANCEL JOB by whether the job's entry has been sent. -/
theorem cancelJobTakesOutOrWithdraws : Obligations.CancelJobTakesOutOrWithdraws := by
  refine ⟨fun s j hj hg => ?deletion, fun s q rest h j turn hh ha hrange hj hjh => ?cancel⟩
  case deletion =>
    obtain ⟨freed, unnamed, advanced⟩ := State.deleteJob_spec hj hg j
    exact ⟨freed, unnamed, advanced, Table.fetch_update_same _ _ _,
      fun k hk => ⟨Table.fetch_remove_other _ hk, State.setGeneration_other _ hk⟩,
      fun k hk => Table.fetch_update_other _ _ hk, State.deleteJob_eq s j⟩
  case cancel =>
    subst hjh
    have named := namedJob_ok (k := .cancelJob) (s := s.leaving rest) (hh ▸ ha) (hh ▸ hrange) (hh ▸ hj)
    refine ⟨fun again => onRequest_ok turn (cancelJobRule_again named again), fun first unreleased => ?unreleased,
      fun c x first charged hx => ⟨fun unsent => ?unsent, fun sent => ?sent⟩⟩
    case unreleased =>
      have rule := cancelJobRule_unsent named first (State.isSent_unreleased unreleased)
      rw [State.takeOut_unreleased unreleased] at rule
      exact onRequest_ok turn rule
    case unsent =>
      have none : x.hasSentEntry j.handle = false := by
        rw [Bool.eq_false_iff, Ne, Station.hasSentEntry_iff]
        rintro ⟨e, he, hhe, hsent⟩
        rw [unsent e he hhe] at hsent; cases hsent
      have rule := cancelJobRule_unsent named first ((State.isSent_eq charged hx).trans none)
      rw [State.takeOut_released charged] at rule
      exact onRequest_ok turn rule
    case sent =>
      have rule := cancelJobRule_sent named first ((State.isSent_eq charged hx).trans (Station.hasSentEntry_iff.2 sent))
      rw [charged] at rule
      refine ⟨_, _, onRequest_accepted turn rule, ?_, fun k hk => Table.fetch_update_other s.jobs _ hk,
        Table.fetch_update_same s.links _ _, fun k hk => Table.fetch_update_other s.links _ hk⟩
      exact (State.updateJob_fetch s _ _).trans (by rw [(State.jobNamed_parts hj).1]; rfl)

theorem spoolFaultRule_ok {q : Request} {s : State} {j : Job} (h : namedJob .spoolFault q s = .ok j) :
    spoolFaultRule q s = .ok
      { state := (if s.isSent j && !j.cancelRequested then s.withdraw ((j.charging.map (·.station)).getD 0) j
          else s).takeOut j (.jobFailed j.handle j.owner j.spoolRef j.state) } := by
  simp [spoolFaultRule, h]

/-- Settles O27: the withdrawal first, where the entry is sent and no cancel asked for it before. -/
theorem spoolFaultDeletesInAnyState : Obligations.SpoolFaultDeletesInAnyState := by
  intro s q rest h j turn hh ha hrange hj hjh
  subst hjh
  have rule := spoolFaultRule_ok (namedJob_ok (k := .spoolFault) (s := s.leaving rest) (hh ▸ ha) (hh ▸ hrange) (hh ▸ hj))
  refine ⟨fun unreleased => ?unreleased, fun c x w charged hx hw => ?released⟩
  case unreleased =>
    rw [State.isSent_unreleased unreleased, State.takeOut_unreleased unreleased] at rule
    exact onRequest_ok turn rule
  case released =>
    have withdrawn : (if (s.leaving rest).isSent j && !j.cancelRequested then
        (s.leaving rest).withdraw ((j.charging.map (·.station)).getD 0) j else s.leaving rest) = w := by
      rw [hw, charged, State.isSent_eq (s := s.leaving rest) charged hx]
      simp only [Bool.and_eq_true, Station.hasSentEntry_iff, Bool.not_eq_true']
      rfl
    rw [withdrawn, State.takeOut_released charged] at rule
    exact onRequest_ok turn rule

/-! ### GET JOB and LIST JOBS -/

theorem getJobRule_ok {q : Request} {s : State} {j : Job} (h : namedJob .getJob q s = .ok j) :
    getJobRule q s =
      .ok { state := s, body := .job j ((s.entryOfSlot (j.handle / 256)).map (fun p => p.2.2)) } := by
  simp [getJobRule, h]

theorem State.entryOfSlot_unreleased {s : State} {slot : Nat} {j : Job} (hj : s.jobs.fetch slot = some j)
    (hc : j.charging = none) : s.entryOfSlot slot = none := by
  simp [State.entryOfSlot, hj, hc]

theorem State.entryOfSlot_eq {s : State} {slot : Nat} {j : Job} {c : Charging} {x : Station}
    (hj : s.jobs.fetch slot = some j) (hc : j.charging = some c) (hx : s.stations.fetch c.station = some x) :
    s.entryOfSlot slot = (x.queue.find? (fun e => e.handle = j.handle)).map (fun e => (j, c, e)) := by
  simp [State.entryOfSlot, hj, hc, hx]

theorem listJobsRule_ok {q : Request} {s : State} {u : User}
    (ha : authorise .listJobs q [s.bindUser (q.field 0 2)] s = .ok ()) (hn : q.field 0 2 < 4096)
    (hskip : q.field 2 1 ≤ 31) (hu : s.users.fetch (q.field 0 2) = some u) :
    let given := ((u.owned.drop (q.field 2 1)).take 16).filterMap s.listedJob
    listJobsRule q s =
      .ok { state := s, body := .jobs u.jobCount given (u.jobCount - q.field 2 1 - given.length) } := by
  simp [listJobsRule, ha, hskip, hu, show q.field 0 2 < Config.userCount from hn]

/-- Handles that all name jobs are all listed, each with its job's state. -/
theorem State.listedJob_map {s : State} {hs : List Nat} (h : ∀ k ∈ hs, (s.jobNamed k).isSome = true) :
    (hs.filterMap s.listedJob).map (·.1) = hs := by
  induction hs with
  | nil => rfl
  | cons k hs ih =>
    rw [List.forall_mem_cons] at h
    obtain ⟨j, hj⟩ := Option.isSome_iff_exists.1 h.1
    have listed : s.listedJob k = some (k, j.state) := by simp [State.listedJob, hj]
    rw [List.filterMap_cons_some listed, List.map_cons, ih h.2]

theorem State.listedJob_state {s : State} {hs : List Nat} {p : Nat × JobState} (h : p ∈ hs.filterMap s.listedJob) :
    (s.jobNamed p.1).map (·.state) = some p.2 := by
  obtain ⟨k, _, hk⟩ := List.mem_filterMap.1 h
  obtain ⟨j, hj, rfl⟩ := Option.map_eq_some_iff.1 hk
  simp [hj]

/-- Settles O28. -/
theorem storeReadsChangeNothing : Obligations.StoreReadsChangeNothing := by
  refine ⟨fun s q rest h j turn hh ha hrange hj hjh => ?job,
    fun s q rest n skip u turn hn hskip ha hn12 hskip31 hu count named => ?jobs⟩
  case job =>
    subst hjh
    have fetched := (State.jobNamed_parts hj).1
    have rule := getJobRule_ok (namedJob_ok (k := .getJob) (s := s.leaving rest) (hh ▸ ha) (hh ▸ hrange) (hh ▸ hj))
    refine ⟨fun unreleased => ?_, fun c x e charged hx he => ?_⟩
    · rw [State.entryOfSlot_unreleased (s := s.leaving rest) fetched unreleased] at rule
      exact onRequest_ok turn rule
    · rw [State.entryOfSlot_eq (s := s.leaving rest) fetched charged hx, he] at rule
      exact onRequest_ok turn rule
  case jobs =>
    subst hn hskip
    have rule := listJobsRule_ok (s := s.leaving rest) ha hn12 hskip31 hu
    have given := State.listedJob_map (s := s) (hs := (u.owned.drop (q.field 2 1)).take 16) fun k hk =>
      named k (List.mem_of_mem_drop (List.mem_of_mem_take hk))
    have following : u.jobCount - q.field 2 1 - (((u.owned.drop (q.field 2 1)).take 16).filterMap s.listedJob).length =
        u.jobCount - (q.field 2 1 + 16) := by
      rw [← List.length_map, given, List.length_take, List.length_drop, count]
      omega
    refine ⟨((u.owned.drop (q.field 2 1)).take 16).filterMap s.listedJob, ?_, given, fun p => State.listedJob_state⟩
    rw [← following]
    exact onRequest_ok turn rule

end Sys2Proof.Machine
end

section
/-! Release (O29 to O31): the send check, the judgement of a candidate, and its release. -/

namespace Sys2Proof.Machine

/-! ### The send check -/

theorem StationState.inUse_iff {x : StationState} : x.inUse = true ↔ x = .inService ∨ x = .degraded := by
  cases x <;> simp [StationState.inUse]

theorem Station.hasSent_iff {x : Station} : x.hasSent = true ↔ ∃ e ∈ x.queue, e.sub = .sent := by
  simp [Station.hasSent]

theorem Station.sendable_iff {x : Station} :
    x.sendable = true ↔ (x.state = .inService ∨ x.state = .degraded) ∧ x.paused = false ∧ ¬ ∃ e ∈ x.queue, e.sub = .sent := by
  simp only [Station.sendable, Bool.and_eq_true, Bool.not_eq_true', StationState.inUse_iff, ← Station.hasSent_iff,
    Bool.not_eq_true, and_assoc]

/-- No entry of an uncommitted job is a send candidate. -/
theorem State.sendCandidate_skips {s : State} {front : List Entry} (rest : List Entry)
    (h : ∀ e ∈ front, ∀ j, s.jobNamed e.handle = some j → j.committed = false) :
    s.sendCandidate (front ++ rest) = s.sendCandidate rest := by
  induction front with
  | nil => rfl
  | cons e front ih =>
    rw [List.forall_mem_cons] at h
    rw [List.cons_append, State.sendCandidate]
    split
    · rename_i j hj
      simp [h.1 j hj, ih h.2]
    · exact ih h.2

theorem State.sendCandidate_none {s : State} {es : List Entry}
    (h : ∀ e ∈ es, ∀ j, s.jobNamed e.handle = some j → j.committed = false) : s.sendCandidate es = none := by
  have := State.sendCandidate_skips [] h
  rwa [List.append_nil] at this

theorem State.sendCandidate_oldest {s : State} {front back : List Entry} {e : Entry} {j : Job}
    (skipped : ∀ f ∈ front, ∀ k, s.jobNamed f.handle = some k → k.committed = false)
    (hj : s.jobNamed e.handle = some j) (hw : e.sub = .waiting) (hc : j.committed = true) :
    s.sendCandidate (front ++ e :: back) = some (e, j) := by
  rw [State.sendCandidate_skips _ skipped]
  simp [State.sendCandidate, hj, hw, hc]

theorem State.sendCheck_unsendable {s : State} {st : Nat} {x : Station} (hx : s.stations.fetch st = some x)
    (h : x.sendable = false) : s.sendCheck st = s := by
  simp [State.sendCheck, hx, h]

theorem State.sendCheck_noCandidate {s : State} {st : Nat} {x : Station} (hx : s.stations.fetch st = some x)
    (h : s.sendCandidate x.queue = none) : s.sendCheck st = s := by
  simp [State.sendCheck, hx, h]

theorem State.sendCheck_candidate {s : State} {st : Nat} {x : Station} {e : Entry} {j : Job} {c : Charging}
    (hx : s.stations.fetch st = some x) (hs : x.sendable = true) (he : s.sendCandidate x.queue = some (e, j))
    (hc : j.charging = some c) : s.sendCheck st = s.sendEntry st e j c := by
  simp [State.sendCheck, hx, hs, he, hc]

/-- What queueing a notice leaves in a state whose mask, notice queue, lost flag and clock are those of `s` (R184). -/
theorem State.notify_outcome {a s : State} (b : NoticeBody) (hm : a.mask = s.mask) (hn : a.notices = s.notices)
    (hl : a.lost = s.lost) (hc : a.clock = s.clock) :
    (s.mask.enables b.cls = false → (a.notify b).notices = s.notices ∧ (a.notify b).lost = s.lost) ∧
    (s.mask.enables b.cls = true → s.notices.length < 64 →
      (a.notify b).lost = s.lost ∧ (a.notify b).notices = s.notices ++ [⟨b.cls, s.clock, b⟩]) ∧
    (s.mask.enables b.cls = true → 64 ≤ s.notices.length →
      (a.notify b).lost = true ∧ (a.notify b).notices = s.notices) := by
  obtain ⟨notices, lost⟩ := State.notify_congr b hm hn hl hc
  rw [notices, lost]
  refine ⟨fun masked => ?_, fun enabled room => ?_, fun enabled full => ?_⟩
  · rw [State.notify_masked masked]; exact ⟨rfl, rfl⟩
  · rw [State.notify_room enabled room]; exact ⟨rfl, rfl⟩
  · rw [State.notify_full enabled full]; exact ⟨rfl, rfl⟩

/-- Taking out the entry of a handle that no other entry carries. -/
theorem filter_others {front back : List Entry} {e : Entry} (h : ∀ f ∈ front ++ back, f.handle ≠ e.handle) :
    (front ++ e :: back).filter (fun f => f.handle ≠ e.handle) = front ++ back := by
  rw [List.filter_append, List.filter_cons]
  simp only [ne_eq, not_true, decide_false, Bool.false_eq_true, if_false]
  rw [← List.filter_append, List.filter_eq_self]
  exact fun f hf => decide_eq_true (h f hf)

/-- Settles O29: the candidate is the oldest WAITING entry of a committed job, and it is sent. -/
theorem sendCheckSendsOldestCommitted : Obligations.SendCheckSendsOldestCommitted := by
  intro s st x hx
  refine ⟨fun h => ?left, fun front back e j c l inUse unpaused queue waiting skipped others hj hh hcm hc hl => ?sent⟩
  case left =>
    rcases h with ⟨h1, h2⟩ | h | h | h
    · refine State.sendCheck_unsendable hx (Bool.eq_false_iff.2 fun sendable => ?_)
      exact (Station.sendable_iff.1 sendable).1.elim h1 h2
    · refine State.sendCheck_unsendable hx (Bool.eq_false_iff.2 fun sendable => ?_)
      rw [(Station.sendable_iff.1 sendable).2.1] at h; cases h
    · exact State.sendCheck_unsendable hx (Bool.eq_false_iff.2 fun sendable => (Station.sendable_iff.1 sendable).2.2 h)
    · exact State.sendCheck_noCandidate hx (State.sendCandidate_none h)
  case sent =>
    have sendable : x.sendable = true := by
      refine Station.sendable_iff.2 ⟨inUse, unpaused, fun ⟨f, hf, hs⟩ => ?_⟩
      rw [waiting f hf] at hs; cases hs
    have candidate : s.sendCandidate x.queue = some (e, j) :=
      queue ▸ State.sendCandidate_oldest skipped hj (waiting e (by simp [queue])) hcm
    have sends := State.sendCheck_candidate hx sendable candidate hc
    rw [State.sendEntry, State.notify_eq, expectCommand, hh] at sends
    refine ⟨_, _, _, _, sends, ?_, fun k hk => Table.fetch_update_other s.stations _ hk, ?_,
      fun k hk => Table.fetch_update_other s.links _ hk,
      State.notify_outcome (s := s) (.streamJob e.handle (tokenOf e.handle) j.spoolRef st c.fallback c.duplexEffective)
        rfl rfl rfl rfl⟩
    · refine (Table.fetch_update_same s.stations _ _).trans ?_
      rw [hx, Option.map_some, queue, filter_others others]; rfl
    · exact (Table.fetch_update_same s.links _ _).trans (by rw [hl]; rfl)

/-! ### The judgement of a candidate -/

theorem Terms.fits_iff (q : Terms) (a : Account) (e : Nat) :
    q.fits a e = true ↔ e = 0 ∨ (a.reserved + e ≤ 2000000000 ∧ (q.mode = .unlimited ∨
      (e : Int) ≤ (q.allowance : Int) + q.grace - a.used - a.reserved)) := by
  have limit : Config.maxAccount = 2000000000 := rfl
  cases hm : q.mode <;> simp [Terms.fits, Terms.remaining, hm, limit]

theorem Station.surchargeFor_eq (x : Station) (t : Nat) :
    x.surchargeFor t = if t = 0 ∨ x.owner = 0 ∨ t = x.owner then 0 else x.surcharge := by
  unfold Station.surchargeFor
  by_cases h1 : t = 0
  · simp [h1]
  · by_cases h2 : x.owner = 0
    · simp [h2]
    · by_cases h3 : t = x.owner
      · simp [h3]
      · simp [h1, h2, h3]

theorem RateTable.ofClass_eq (r : RateTable) (z : SizeClass) :
    r.ofClass z = if z = .s then r.s else if z = .l then r.l else r.e := by cases z <;> rfl

/-- The estimate, spelt out (R23, R24). -/
theorem Descriptor.estimate_eq (d : Descriptor) (duplex : Bool) (rate sheetRate u : Nat) :
    d.estimate duplex rate sheetRate u =
      (((d.pages + d.nUp - 1) / d.nUp * d.copies * rate +
        (if duplex = true then ((d.pages + d.nUp - 1) / d.nUp + 1) / 2 else (d.pages + d.nUp - 1) / d.nUp) * d.copies *
          sheetRate) * (100 + u) + 99) / 100 := rfl

/-- Settles O30: what `State.judge` computes is spelt out, and the steps are taken in their order. -/
theorem candidatesAreJudgedInOrder : Obligations.CandidatesAreJudgedInOrder := by
  intro s st x u j d t r c fallback duplex userFits tenantFits sides impressions sheets rate u' e hd ht hprobation hroom
    hfallback hduplex hsides himpressions hsheets hr hrate hu' he hc huser htenant
  have needs : x.needsFallback j = fallback := by rw [hfallback, hd]; rfl
  have applied : (if d.colour && !fallback then r.colour else r.mono) = rate := by
    rw [hrate]; simp only [Bool.and_eq_true, Bool.not_eq_true']
  have charging : s.rates.chargingAt st x j fallback = c := by
    subst hd
    have rates : s.rates.ofClass j.descriptor.sizeClass = r := (RateTable.ofClass_eq _ _).trans hr.symm
    rw [hc, he, himpressions, hsheets, hsides, hduplex]
    simp only [RateTable.chargingAt, rates, applied, Station.surchargeFor_eq, ← hu', Descriptor.estimate_eq]
  have reservation : c.reservation = e := by rw [hc]
  have user : (s.userTerms u).fits u.account c.reservation = userFits := by
    rw [Bool.eq_iff_iff, Terms.fits_iff, huser, reservation]; rfl
  have tenant : t.terms.fits t.account c.reservation = tenantFits := by
    rw [Bool.eq_iff_iff, Terms.fits_iff, htenant, reservation]; rfl
  have full : x.capacity ≤ x.depth ↔ x.queue.length = 2 ^ x.weight := by
    simp only [Station.capacity, if_neg hprobation, Station.depth]; omega
  have found : s.tenantOf j.tenant = t := by simp [State.tenantOf, ht]
  simp only [State.judge, needs, charging, found, user, tenant, full, ← hd, Bool.not_eq_true', Bool.and_eq_true]

/-! ### The release of a candidate -/

theorem State.updateJob_fetch_named {s : State} {h : Nat} {j : Job} (hj : s.jobNamed h = some j) (f : Job → Job) :
    (s.updateJob h f).jobs.fetch (h / 256) = some (f j) := by
  rw [State.updateJob_fetch, (State.jobNamed_parts hj).1]; rfl

theorem State.reportBusy_eq (s : State) (st : Nat) (x : Station) :
    s.reportBusy st x =
      if x.queue.length + 1 = x.midWater then s.notify (.stationBusy st (x.queue.length + 1) x.capacity) else s := by
  unfold State.reportBusy
  by_cases h : x.queue.length + 1 = x.midWater
  · rw [if_pos h, if_pos (by simp only [Bool.and_eq_true, decide_eq_true_eq]; simp only [Station.depth]; omega)]; rfl
  · rw [if_neg h, if_neg (by simp only [Bool.and_eq_true, decide_eq_true_eq]; simp only [Station.depth]; omega)]

/-- STATION BUSY is queued alike in two states whose notice queues, masks, lost flags and clocks agree. -/
theorem State.reportBusy_congr {a s : State} (st : Nat) (x : Station) (h1 : a.mask = s.mask) (h2 : a.notices = s.notices)
    (h3 : a.lost = s.lost) (h4 : a.clock = s.clock) :
    a.reportBusy st x = { a with notices := (s.reportBusy st x).notices, lost := (s.reportBusy st x).lost } := by
  simp only [State.reportBusy_eq]
  split
  · obtain ⟨hn, hl⟩ := State.notify_congr (.stationBusy st (x.queue.length + 1) x.capacity) h1 h2 h3 h4
    rw [State.notify_eq a, hn, hl]
  · rw [← h2, ← h3]

/-- Settles O31. -/
theorem releaseReservesAndQueues : Obligations.ReleaseReservesAndQueues := by
  intro s st x j c u t hx hj hu ht
  have busy := State.reportBusy_congr (s := s)
    (a := ((s.reserve j.owner j.tenant c.reservation).updateJob j.handle
      (fun j => { j with state := .queued, charging := some c })).updateStation st
        (fun x => { x with queue := x.queue ++ [s.newEntry j] })) st x rfl rfl rfl rfl
  have entry : s.newEntry j =
      { handle := j.handle, sub := .waiting, released := s.clock
        commitDeadline := if j.committed = true then none else some (min (s.clock + t.commitWindow) 4294967295)
        startDeadline := none, abandonDeadline := none, holdOver := false } := by
    simp only [State.newEntry, State.minuteAfter, State.tenantOf, ht, Option.getD_some]; rfl
  refine ⟨_, _, _, _, _, busy, ?_, fun k hk => Table.fetch_update_other s.users _ hk, ?_,
    fun k hk => Table.fetch_update_other s.tenants _ hk, ?_, fun k hk => Table.fetch_update_other s.jobs _ hk, ?_,
    fun k hk => Table.fetch_update_other s.stations _ hk, State.reportBusy_eq s st x⟩
  · exact (Table.fetch_update_same s.users _ _).trans (by rw [hu]; rfl)
  · exact (Table.fetch_update_same s.tenants _ _).trans (by rw [ht]; rfl)
  · exact State.updateJob_fetch_named (s := s) hj (fun j => { j with state := .queued, charging := some c })
  · refine (Table.fetch_update_same s.stations _ _).trans ?_
    rw [hx, entry]; rfl

end Sys2Proof.Machine
end

section
/-! What a reply that is heard does, and a badge presentation with its probe (O32, O33). -/

namespace Sys2Proof.Machine

/-! ### Replies that are heard -/

theorem onReply_running {s : State} (h : ReplyHeader) (ev : LinkEvent) (running : s.resetHeld = false) :
    onReply h ev s = .next (s.replyArrives h ev) :=
  congrArg Host.Outcome.next (State.whileRunning_run running _)

section
variable {s : State} {h : ReplyHeader} {p : AwaitedPoll} {l : Link}

/-- A good reply of a station with a link record: the link's work, then the event (R113, R114). -/
theorem State.Heard.arrives (heard : s.Heard h p l) (ev : LinkEvent) :
    s.replyArrives h ev =
      (s.afterReply h p l (decide (ev = .idle))).takeEvent (stationOf h) l h.seq ev := by
  have link : s.links.fetch (stationAt h.riser.val p.drop) = some l := heard.address ▸ heard.link
  simp only [State.replyArrives, State.pollEnds, heard.awaited, heard.kept, heard.visit, heard.address, ne_eq, not_true,
    if_false, Bool.false_eq_true, State.goodReply]
  rw [heard.link]; rfl

/-- A new event is routed to its owning block (R114 step 3, R123). -/
theorem State.Heard.new (heard : s.Heard h p l) {ev : LinkEvent} (sequenced : ev ≠ .idle)
    (new : ev.isNew l.accepted h.seq = true) : s.replyArrives h ev = (s.acceptEvent h p l).route (stationOf h) ev := by
  rw [heard.arrives, State.takeEvent, if_pos new, decide_eq_false sequenced]; rfl

/-- An event that is not new is not routed (R114 step 3, R116). -/
theorem State.Heard.old (heard : s.Heard h p l) {ev : LinkEvent} (old : ev.isNew l.accepted h.seq = false) :
    s.replyArrives h ev = s.afterReply h p l (decide (ev = .idle)) := by
  rw [heard.arrives, State.takeEvent, if_neg (by simp [old])]

theorem onReply_new (heard : s.Heard h p l) {ev : LinkEvent} (sequenced : ev ≠ .idle)
    (new : ev.isNew l.accepted h.seq = true) :
    onReply h ev s = .next ((s.acceptEvent h p l).route (stationOf h) ev) := by
  rw [onReply_running h ev heard.running, heard.new sequenced new]

end

/-! ### The neighbour suggestion -/

theorem Station.qualifies_iff {y : Station} {t : Nat} :
    y.qualifies t = true ↔ (y.state = .inService ∨ y.state = .degraded) ∧
      (t = 0 ∨ t = y.owner ∨ t ∈ y.admitted) ∧ y.queue.length < 2 ^ y.weight := by
  have admits : y.admits t = true ↔ t = 0 ∨ t = y.owner ∨ t ∈ y.admitted := by
    simp [Station.admits, or_assoc]
  simp only [Station.qualifies, Bool.and_eq_true, StationState.inUse_iff, admits, and_assoc, and_congr_right_iff,
    decide_eq_true_eq]
  intro inUse _
  have used : y.state ≠ .probation := by rcases inUse with h | h <;> rw [h] <;> decide
  simp only [Station.depth, Station.capacity, if_neg used]

theorem Station.admits_iff {y : Station} {t : Nat} : y.admits t = true ↔ t = 0 ∨ t = y.owner ∨ t ∈ y.admitted := by
  simp [Station.admits, or_assoc]

theorem State.suggest_skips {s : State} {t : Nat} {front : List Nat} (rest : List Nat)
    (h : ∀ k ∈ front, ∀ z, s.stations.fetch k = some z → z.qualifies t = false) :
    s.suggest t (front ++ rest) = s.suggest t rest := by
  induction front with
  | nil => rfl
  | cons k front ih =>
    rw [List.forall_mem_cons] at h
    rw [List.cons_append, State.suggest]
    split
    · rename_i z hz
      simp [h.1 z hz, ih h.2]
    · exact ih h.2

theorem State.suggest_none {s : State} {t : Nat} {ns : List Nat}
    (h : ∀ k ∈ ns, ∀ z, s.stations.fetch k = some z → z.qualifies t = false) : s.suggest t ns = none := by
  have := State.suggest_skips [] h
  rwa [List.append_nil] at this

theorem State.suggest_first {s : State} {t : Nat} {front back : List Nat} {m : Nat} {y : Station}
    (h : ∀ k ∈ front, ∀ z, s.stations.fetch k = some z → z.qualifies t = false) (hy : s.stations.fetch m = some y)
    (hq : y.qualifies t = true) : s.suggest t (front ++ m :: back) = some ⟨m, y.floor⟩ := by
  rw [State.suggest_skips _ h]
  simp [State.suggest, hy, hq]

/-! ### Candidates -/

theorem State.isUnreleased_eq (s : State) (h : Nat) :
    s.isUnreleased h = (decide ((s.jobNamed h).map (·.state) = some .receiving) ||
      decide ((s.jobNamed h).map (·.state) = some .held)) := by
  unfold State.isUnreleased
  cases s.jobNamed h <;> simp [Job.unreleased]

theorem State.candidates_eq (s : State) (u : User) :
    s.candidates u = (u.owned.filter (fun h => ((s.jobNamed h).map (·.state)) = some .receiving ||
      ((s.jobNamed h).map (·.state)) = some .held)).take (s.tenantOf u.tenant).releaseDepth := by
  simp only [State.candidates, funext fun h => State.isUnreleased_eq s h]

theorem State.candidates_none {s : State} {u : User}
    (h : ∀ k ∈ u.owned, ∀ j, s.jobNamed k = some j → j.state ≠ .receiving ∧ j.state ≠ .held) : s.candidates u = [] := by
  have none : u.owned.filter s.isUnreleased = [] := by
    rw [List.filter_eq_nil_iff]
    intro k hk
    unfold State.isUnreleased
    cases hj : s.jobNamed k with
    | none => simp
    | some j => simp [Job.unreleased, h k hk j hj]
  rw [State.candidates, none, List.take_nil]

/-! ### The examination -/

section
variable {s : State} {st n h : Nat} {hs : List Nat} {x : Station} {u : User} {j : Job}

theorem State.examine_skip (hx : s.stations.fetch st = some x) (hu : s.users.fetch n = some u)
    (hj : s.jobNamed h = some j) {r : SkipReason} {c : Option Charging} (judged : s.judge st x u j = (.skip r, c))
    (hr : r ≠ .queueFull) :
    State.examine st n (h :: hs) s =
      ((State.examine st n hs s).1, ⟨h, .skip r, c.map (·.reservation)⟩ :: (State.examine st n hs s).2) := by
  cases r <;> simp_all [State.examine]

theorem State.examine_full (hx : s.stations.fetch st = some x) (hu : s.users.fetch n = some u)
    (hj : s.jobNamed h = some j) {c : Option Charging} (judged : s.judge st x u j = (.skip .queueFull, c)) :
    State.examine st n (h :: hs) s = (s, [⟨h, .skip .queueFull, c.map (·.reservation)⟩]) := by
  simp [State.examine, hx, hu, hj, judged]

theorem State.examine_release (hx : s.stations.fetch st = some x) (hu : s.users.fetch n = some u)
    (hj : s.jobNamed h = some j) {v : Verdict} {c : Charging} (judged : s.judge st x u j = (v, some c))
    (hv : v = .release ∨ v = .releaseFallback) :
    State.examine st n (h :: hs) s =
      ((State.examine st n hs (s.releaseJob st x j c)).1,
        ⟨h, v, some c.reservation⟩ :: (State.examine st n hs (s.releaseJob st x j c)).2) := by
  rcases hv with rfl | rfl <;> simp [State.examine, hx, hu, hj, judged]

end

theorem Examined.released_eq (e : Examined) :
    e.released = (decide (e.verdict = .release) || decide (e.verdict = .releaseFallback)) := by
  unfold Examined.released
  cases e.verdict <;> simp

theorem length_filter_not {α : Type} (p : α → Bool) (xs : List α) :
    (xs.filter (fun e => !p e)).length = xs.length - (xs.filter p).length := by
  have := List.length_eq_length_filter_add (l := xs) p
  omega

theorem State.releaseShow_eq (s : State) (t : Nat) (ns : List Nat) (xs : List Examined) :
    s.releaseShow t ns xs =
      { result := .release
        released := (xs.filter (fun e => e.verdict = .release || e.verdict = .releaseFallback)).length
        fallback := (xs.filter (fun e => e.verdict = .releaseFallback)).length
        skipped := xs.length - (xs.filter (fun e => e.verdict = .release || e.verdict = .releaseFallback)).length
        firstSkip := xs.findSome? Examined.skipReason
        suggestion := if xs.findSome? Examined.skipReason = some .queueFull then s.suggest t ns else none } := by
  simp only [State.releaseShow, List.head?_filterMap, length_filter_not, funext Examined.released_eq]

/-! ### Presentations -/

section
variable {s : State} {st badge n : Nat} {x : Station} {u : User}

theorem State.presentBadge_eq (hx : s.stations.fetch st = some x) (badge : Nat) :
    s.presentBadge st badge =
      if (s.present st x (s.badgeHolder badge)).2.1.result = .release then
        ((s.present st x (s.badgeHolder badge)).1.handShow st (s.present st x (s.badgeHolder badge)).2.1).sendCheck st
      else (s.present st x (s.badgeHolder badge)).1.handShow st (s.present st x (s.badgeHolder badge)).2.1 := by
  simp [State.presentBadge, hx]

theorem State.badgeHolder_none (h : badge = 0 ∨ ∀ p ∈ s.users, p.2.badge ≠ badge) : s.badgeHolder badge = none := by
  unfold State.badgeHolder
  split
  · rfl
  · rename_i hb
    rw [List.find?_eq_none]
    intro p hp
    simpa using (h.resolve_left hb) p hp

theorem State.badgeHolder_some (hb : badge ≠ 0) (h : s.users.find? (fun p => p.2.badge = badge) = some (n, u)) :
    s.badgeHolder badge = some (n, u) := by
  rw [State.badgeHolder, if_neg hb]; exact h

/-- A presentation that ends before an examination hands over its SHOW alone. -/
theorem State.presentBadge_ends (hx : s.stations.fetch st = some x) {sh : Show}
    (ends : s.present st x (s.badgeHolder badge) = (s, sh, [])) (hr : sh.result ≠ .release) :
    s.presentBadge st badge = s.handShow st sh := by
  simp [State.presentBadge_eq hx, ends, hr]

theorem earlyEnd_suspended (h : u.state = .suspended) : earlyEnd x u = some .suspended := by simp [earlyEnd, h]

theorem earlyEnd_stationDown (h : u.state = .active) (h1 : x.state ≠ .inService) (h2 : x.state ≠ .degraded) :
    earlyEnd x u = some .stationDown := by
  have down : x.state.inUse = false := by
    rw [Bool.eq_false_iff, Ne, StationState.inUse_iff]; exact fun h => h.elim h1 h2
  simp [earlyEnd, h, down]

theorem earlyEnd_notPermitted (h : u.state = .active) (hi : x.state = .inService ∨ x.state = .degraded)
    (ha : ¬ (u.tenant = 0 ∨ u.tenant = x.owner ∨ u.tenant ∈ x.admitted)) : earlyEnd x u = some .notPermittedHere := by
  have barred : x.admits u.tenant = false := by rw [Bool.eq_false_iff, Ne, Station.admits_iff]; exact ha
  simp [earlyEnd, h, StationState.inUse_iff.2 hi, barred]

theorem earlyEnd_none (h : u.state = .active) (hi : x.state = .inService ∨ x.state = .degraded)
    (ha : u.tenant = 0 ∨ u.tenant = x.owner ∨ u.tenant ∈ x.admitted) : earlyEnd x u = none := by
  simp [earlyEnd, h, StationState.inUse_iff.2 hi, Station.admits_iff.2 ha]

theorem State.present_early (ended : (earlyEnd x u).isSome = true) (notDown : earlyEnd x u ≠ some .stationDown) :
    s.present st x (some (n, u)) = (s, { result := (earlyEnd x u).getD .release }, []) := by
  obtain ⟨r, hr⟩ := Option.isSome_iff_exists.1 ended
  rw [hr] at notDown
  simp only [State.present, hr, Option.getD_some]
  cases r with
  | stationDown => exact absurd rfl notDown
  | _ => rfl

theorem State.present_stationDown (h : earlyEnd x u = some .stationDown) :
    s.present st x (some (n, u)) =
      (s, { result := .stationDown, suggestion := s.suggest u.tenant x.neighbours }, []) := by
  simp [State.present, h]

theorem State.present_nothingHeld (h : earlyEnd x u = none) (hc : s.candidates u = []) :
    s.present st x (some (n, u)) = (s, { result := .nothingHeld }, []) := by
  simp [State.present, h, hc]

theorem State.present_examined (h : earlyEnd x u = none) (hc : s.candidates u ≠ []) :
    s.present st x (some (n, u)) =
      ((State.examine st n (s.candidates u) s).1,
        (State.examine st n (s.candidates u) s).1.releaseShow u.tenant x.neighbours
          (State.examine st n (s.candidates u) s).2,
        (State.examine st n (s.candidates u) s).2) := by
  rw [State.present, h]
  cases hs : s.candidates u with
  | nil => exact absurd hs hc
  | cons j js => rfl

/-- A presentation that examines candidates hands over the SHOW that counts them, and the send check runs. -/
theorem State.presentBadge_examined (hx : s.stations.fetch st = some x)
    (holder : s.badgeHolder badge = some (n, u)) (h : earlyEnd x u = none) (hc : s.candidates u ≠ []) {b : State}
    {xs : List Examined} (he : State.examine st n (s.candidates u) s = (b, xs)) :
    s.presentBadge st badge = (b.handShow st (b.releaseShow u.tenant x.neighbours xs)).sendCheck st := by
  rw [State.presentBadge_eq hx, holder, State.present_examined h hc, he]
  exact if_pos rfl

end

/-- Settles O32: the event's route, the early ends in their order, and the examination step by step. -/
theorem badgeIsPresentedAtItsStation : Obligations.BadgeIsPresentedAtItsStation := by
  refine ⟨fun s a h number p l x heard new ha hx => ?event, fun s st badge x hx => ⟨fun none => ?notEnrolled,
    fun n u hb found => ?found⟩, State.candidates_eq, fun s st n => ⟨rfl, fun h hs x u j hx hu hj => ?examination⟩,
    fun s t ns xs first hfirst => ?counts, fun s t ns => ⟨State.suggest_none, fun front back m y hns skipped hy hq => ?suggested,
      fun y => Station.qualifies_iff⟩⟩
  case event =>
    subst ha
    have routed := onReply_new heard (ev := .badge number.toNat) (by simp) (by simpa [LinkEvent.isNew] using new)
    exact routed.trans (by simp [State.route, hx])
  case notEnrolled =>
    exact State.presentBadge_ends hx (by rw [State.badgeHolder_none none]; rfl) (by decide)
  case found =>
    have holder := State.badgeHolder_some hb found
    refine ⟨fun suspended => ?suspended, fun active h1 h2 => ?down, fun active inUse h0 ho ha => ?barred,
      fun active inUse admitted => ?examined⟩
    case suspended =>
      have early := earlyEnd_suspended (x := x) suspended
      exact State.presentBadge_ends hx
        (by rw [holder, State.present_early (by simp [early]) (by simp [early]), early]; rfl) (by decide)
    case down =>
      refine ⟨s.suggest u.tenant x.neighbours, State.presentBadge_ends hx
        (by rw [holder, State.present_stationDown (earlyEnd_stationDown active h1 h2)]) DisplayResult.noConfusion, State.suggest_none, ?_⟩
      rintro front back m y hns skipped hy hq
      rw [hns, State.suggest_first skipped hy hq]
    case barred =>
      have early := earlyEnd_notPermitted active inUse (not_or.2 ⟨h0, not_or.2 ⟨ho, ha⟩⟩)
      exact State.presentBadge_ends hx
        (by rw [holder, State.present_early (by simp [early]) (by simp [early]), early]; rfl) (by decide)
    case examined =>
      have early := earlyEnd_none active inUse admitted
      refine ⟨fun none => ?nothing, fun j v c hu one hj judged hv => ?released, fun j r c hu one hj judged hr => ?skipped,
        fun j c hu one hj judged => ?full, fun b xs some he => ?any⟩
      case nothing =>
        exact State.presentBadge_ends hx
          (by rw [holder, State.present_nothingHeld early (State.candidates_none none)]) (by decide)
      case released =>
        have examined := State.examine_release (hs := []) hx hu hj judged hv
        rw [← one] at examined
        rw [State.presentBadge_examined hx holder early (by simp [one]) examined, State.releaseShow_eq]
        rcases hv with rfl | rfl <;> rfl
      case skipped =>
        have examined := State.examine_skip (hs := []) hx hu hj judged hr
        rw [← one] at examined
        rw [State.presentBadge_examined hx holder early (by simp [one]) examined, State.releaseShow_eq]
        cases r with
        | queueFull => exact absurd rfl hr
        | _ => rfl
      case full =>
        have examined := State.examine_full (hs := []) hx hu hj judged
        rw [← one] at examined
        rw [State.presentBadge_examined hx holder early (by simp [one]) examined, State.releaseShow_eq]
        rfl
      case any => exact State.presentBadge_examined hx holder early some he.symm
  case examination =>
    refine ⟨fun r c judged hr => State.examine_skip hx hu hj judged hr, fun c judged => State.examine_full hx hu hj judged,
      fun v c b judged hv hb => ?_⟩
    rw [hb]; exact State.examine_release hx hu hj judged hv
  case counts =>
    obtain rfl : first = xs.findSome? Examined.skipReason := hfirst
    exact State.releaseShow_eq s t ns xs
  case suggested => rw [hns]; exact State.suggest_first skipped hy hq

end Sys2Proof.Machine
end

section
/-! PROBE RELEASE (O33): a presentation does not depend on the request queue, and its SHOW stays at the front. -/

namespace Sys2Proof.Machine

/-! ### The request queue plays no part in a presentation -/

theorem State.reportBusy_leaving (s : State) (rest : List Request) (st : Nat) (x : Station) :
    (s.leaving rest).reportBusy st x = (s.reportBusy st x).leaving rest := by
  unfold State.reportBusy
  split
  · exact State.notify_leaving _ rest _
  · rfl

theorem State.releaseJob_leaving (s : State) (rest : List Request) (st : Nat) (x : Station) (j : Job) (c : Charging) :
    (s.leaving rest).releaseJob st x j c = (s.releaseJob st x j c).leaving rest :=
  State.reportBusy_leaving (((s.reserve j.owner j.tenant c.reservation).updateJob j.handle
      (fun j => { j with state := .queued, charging := some c })).updateStation st
    (fun x => { x with queue := x.queue ++ [s.newEntry j] })) rest st x

theorem State.examine_leaving (st n : Nat) (hs : List Nat) (s : State) (rest : List Request) :
    State.examine st n hs (s.leaving rest) =
      ((State.examine st n hs s).1.leaving rest, (State.examine st n hs s).2) := by
  induction hs generalizing s with
  | nil => rfl
  | cons h hs ih =>
    have judge (x : Station) (u : User) (j : Job) : (s.leaving rest).judge st x u j = s.judge st x u j := rfl
    have named : (s.leaving rest).jobNamed h = s.jobNamed h := rfl
    unfold State.examine
    simp only [State.leaving_stations, State.leaving_users, named, judge, State.releaseJob_leaving, ih]
    split
    · split <;> rfl
    · rfl

theorem State.suggest_leaving (s : State) (rest : List Request) (t : Nat) (ns : List Nat) :
    (s.leaving rest).suggest t ns = s.suggest t ns := by
  induction ns with
  | nil => rfl
  | cons n ns ih => simp only [State.suggest, State.leaving_stations, ih]

/-- The SHOW and the candidates examined of a presentation, whatever requests wait. -/
theorem State.present_leaving (s : State) (rest : List Request) (st : Nat) (x : Station) (found : Option (Nat × User)) :
    ((s.leaving rest).present st x found).2 = (s.present st x found).2 := by
  have candidates (u : User) : (s.leaving rest).candidates u = s.candidates u := rfl
  match found with
  | none => rfl
  | some (n, u) =>
    simp only [State.present, candidates, State.suggest_leaving, State.examine_leaving]
    split
    · rfl
    · rfl
    · split
      · rfl
      · simp only [State.releaseShow, State.suggest_leaving]

/-- A presentation that ends early examines no candidate. -/
theorem State.present_examines (s : State) (st : Nat) (x : Station) (found : Option (Nat × User))
    (h : (s.present st x found).2.1.result ≠ .release) : (s.present st x found).2.2 = [] := by
  match found with
  | none => rfl
  | some (n, u) =>
    simp only [State.present] at h ⊢
    split at h
    · rfl
    · rfl
    · split at h
      · rfl
      · exact absurd rfl h

/-! ### The SHOW at the front -/

theorem State.releaseJob_links (s : State) (st : Nat) (x : Station) (j : Job) (c : Charging) :
    (s.releaseJob st x j c).links = s.links := by
  unfold State.releaseJob State.reportBusy
  dsimp only []
  split
  · rw [State.notify_links]; rfl
  · rfl

theorem State.examine_links (st n : Nat) (hs : List Nat) (s : State) : (State.examine st n hs s).1.links = s.links := by
  induction hs generalizing s with
  | nil => rfl
  | cons h hs ih =>
    unfold State.examine
    split
    · split
      · rfl
      · exact ih s
      · exact (ih _).trans (State.releaseJob_links _ _ _ _ _)
      · exact ih s
    · exact ih s

theorem State.present_links (s : State) (st : Nat) (x : Station) (found : Option (Nat × User)) :
    (s.present st x found).1.links = s.links := by
  match found with
  | none => rfl
  | some (n, u) =>
    simp only [State.present]
    split
    · rfl
    · rfl
    · split
      · rfl
      · exact State.examine_links _ _ _ _

/-- The command `c` stands at the front of the list of station `st`. -/
def State.AtFront (s : State) (st : Nat) (c : Command) : Prop :=
  ∃ l, s.links.fetch st = some l ∧ l.commands.head? = some c

theorem State.handShow_atFront {s : State} {st : Nat} {l : Link} (hl : s.links.fetch st = some l) (sh : Show) :
    (s.handShow st sh).AtFront st (.display sh) :=
  ⟨l.handShow sh, by simp [State.handShow, Table.fetch_update_same, hl], Link.handShow_front l sh⟩

/-- The send check hands its EXPECT behind the commands that stand. -/
theorem State.AtFront.sendCheck {s : State} {st : Nat} {c : Command} (h : s.AtFront st c) :
    (s.sendCheck st).AtFront st c := by
  obtain ⟨l, hl, front⟩ := h
  unfold State.sendCheck
  split
  · exact ⟨l, hl, front⟩
  · split
    · split
      · split
        · rename_i j _ _ ch _
          exact ⟨l.hand (expectCommand j ch), by
            simp [State.sendEntry, State.handCommand, Table.fetch_update_same, hl], Link.hand_front _ front⟩
        · exact ⟨l, hl, front⟩
      · exact ⟨l, hl, front⟩
    · exact ⟨l, hl, front⟩

/-- A presentation leaves its SHOW at the front of its station's list. -/
theorem State.presentBadge_atFront {s : State} {st badge : Nat} {x : Station} {l : Link}
    (hx : s.stations.fetch st = some x) (hl : s.links.fetch st = some l) :
    (s.presentBadge st badge).AtFront st (.display (s.present st x (s.badgeHolder badge)).2.1) := by
  rw [State.presentBadge_eq hx]
  have shown := State.handShow_atFront ((congrArg (·.fetch st) (State.present_links s st x (s.badgeHolder badge))).trans hl)
    (s.present st x (s.badgeHolder badge)).2.1
  split
  · exact shown.sendCheck
  · exact shown

/-! ### The request -/

theorem probeReleaseRule_ok {q : Request} {s : State} {p : Nat × User} {x : Station}
    (ha : authorise .probeRelease q [s.bindProbed (q.field 0 1) (q.field 1 4)] s = .ok ())
    (selector : q.field 0 1 ≤ 1) (named : if q.field 0 1 = 0 then q.field 1 4 < 4096 else q.field 1 4 ≠ 0)
    (hst : q.field 5 1 < 96) (found : s.probedUser (q.field 0 1) (q.field 1 4) = some p)
    (hx : s.stations.fetch (q.field 5 1) = some x) :
    probeReleaseRule q s =
      .ok { state := s, body := .probe (s.present (q.field 5 1) x (some p)).2.1 (s.present (q.field 5 1) x (some p)).2.2 } := by
  have range : (q.field 0 1 ≤ 1 && (if q.field 0 1 = 0 then decide (q.field 1 4 < Config.userCount) else !decide (q.field 1 4 = 0)) &&
      q.field 5 1 < Config.stationCount) = true := by
    rw [decide_eq_true selector, decide_eq_true (p := _ < Config.stationCount) hst, Bool.true_and, Bool.and_true]
    split at named
    · rw [if_pos ‹_›]; exact decide_eq_true named
    · rw [if_neg ‹_›, decide_eq_false named]; rfl
  simp [probeReleaseRule, ha, found, hx, demand, require_of range]

/-- Settles O33: the probe's presentation is that of a badge, whose SHOW stays at the front. -/
theorem probeSaysWhatABadgeWouldShow : Obligations.ProbeSaysWhatABadgeWouldShow := by
  intro s q rest n st u x l turn ha by_ hst hlt hx hl
  subst hst
  have answer {p : Nat × User} (selector : q.field 0 1 ≤ 1)
      (named : if q.field 0 1 = 0 then q.field 1 4 < 4096 else q.field 1 4 ≠ 0)
      (found : s.probedUser (q.field 0 1) (q.field 1 4) = some p) :=
    probeReleaseRule_ok (s := s.leaving rest) ha selector named hlt found hx
  have found : s.probedUser (q.field 0 1) (q.field 1 4) = some (n, u) := by
    rcases by_ with ⟨h0, rfl, _, hu⟩ | ⟨h1, hb, hu⟩
    · simp [State.probedUser, h0, hu]
    · rw [State.probedUser, if_neg (by omega)]; exact State.badgeHolder_some hb hu
  have rule := answer (by omega) (by split <;> omega) found
  rw [State.present_leaving] at rule
  refine ⟨_, _, onRequest_ok turn rule, State.present_examines _ _ _ _, fun hb holder => ?_⟩
  have front := State.presentBadge_atFront (badge := u.badge) hx hl
  rwa [State.badgeHolder_some hb holder] at front

end Sys2Proof.Machine
end

section
/-! Admission (O34): the carried fields, the pool, and the callout delays that start. -/

namespace Sys2Proof.Machine

/-! ### Roles 0 and 1 -/

/-- A kind that roles 0 and 1 may issue is authorised for them, whatever the request names. -/
theorem authorise_building {k : Kind} {q : Request} (bound : List Binding) (s : State) (role : q.role = 0 ∨ q.role = 1)
    (h : k.permission 1 ≠ .no) : authorise k q bound s = .ok () := by
  rcases role with h0 | h1
  · exact authorise_operator h0 k bound s
  · exact authorise_yes bound s (by omega) (by rw [h1]; exact h)

/-! ### Callout delays -/

theorem State.allCovered_iff {s : State} {st : Nat} {cs : ColourSet} :
    s.allCovered st cs = true ↔ ∀ col, cs.contains col = true → s.covered st col = true := by
  have all (col : Toner) : col ∈ allToners := by cases col <;> decide
  simp [State.allCovered, ColourSet.members, all]
  exact forall_congr' fun col => by cases cs.contains col <;> simp

theorem State.setLink_faultAt {s : State} {st : Nat} {c : FaultClass} {f : FaultEntry} (h : s.faultAt st c = some f)
    (l : CalloutLink) : (s.setLink st c l).faultAt st c = some { f with link := l } := by
  simp only [State.faultAt, State.setLink, Table.fetch_update_same] at h ⊢
  rw [h]; rfl

section
variable {s : State} {st : Nat} {c : FaultClass} {f : FaultEntry} {d : Option Nat}

theorem State.startDelay_idle (h : ∀ f d, s.faultAt st c = some f → f.link ≠ .waiting d) : State.startDelay st s c = s := by
  unfold State.startDelay
  split
  · split
    · rename_i hf _ d hl; exact absurd hl (h _ d hf)
    · rfl
  · rfl

theorem State.startDelay_suppressed (hf : s.faultAt st c = some f) (hl : f.link = .waiting d) (hc : c = .toner)
    (covered : s.allCovered st f.colours = true) : State.startDelay st s c = s.setLink st c .suppressed := by
  simp [State.startDelay, hf, hl, covered, ← hc]

theorem State.startDelay_due (hf : s.faultAt st c = some f) (hl : f.link = .waiting d)
    (open_ : ¬ (c = .toner ∧ s.allCovered st f.colours = true)) (zero : s.policy.delay c = 0) :
    State.startDelay st s c = s.fallDue st c := by
  simp only [State.startDelay, hf, hl]
  rw [if_neg (by simpa using open_), if_pos zero]

theorem State.startDelay_waits (hf : s.faultAt st c = some f) (hl : f.link = .waiting d)
    (open_ : ¬ (c = .toner ∧ s.allCovered st f.colours = true)) (delay : 0 < s.policy.delay c) :
    State.startDelay st s c = s.setLink st c (.waiting (some (s.minuteAfter (s.policy.delay c)))) := by
  simp only [State.startDelay, hf, hl]
  rw [if_neg (by simpa using open_), if_neg (by omega)]

end

/-! ### The request -/

/-- A tenant set names 32 tenants at most. -/
theorem mem_tenantSetOf {v t : Nat} : t ∈ tenantSetOf v ↔ t < 32 ∧ v.testBit t = true := by
  simp [tenantSetOf]

theorem admitChange_apply (q : Request) (x : Station) :
    (admitChange q).apply x = { x with
      owner := if (q.field 1 1).testBit 0 then q.field 2 1 else x.owner
      admitted := if (q.field 1 1).testBit 1 then tenantSetOf (q.field 3 4) else x.admitted
      surcharge := if (q.field 1 1).testBit 2 then q.field 7 1 else x.surcharge
      weight := if (q.field 1 1).testBit 3 then q.field 8 1 else x.weight
      midWater := if (q.field 1 1).testBit 3 then 2 ^ (if (q.field 1 1).testBit 3 then q.field 8 1 else x.weight) / 2
        else x.midWater } := by
  simp only [StationChange.apply, StationChange.midWaterAt, admitChange, carried_getD, carried_map_getD, carried_isSome]
  rfl

theorem admitChange_valid {q : Request} (st : Nat) (owner : (q.field 1 1).testBit 0 = true → q.field 2 1 < 32)
    (admitted : (q.field 1 1).testBit 1 = true → (q.field 3 4).testBit 0 = false)
    (surcharge : (q.field 1 1).testBit 2 = true → q.field 7 1 ≤ 200)
    (weight : (q.field 1 1).testBit 3 = true → 1 ≤ q.field 8 1 ∧ q.field 8 1 ≤ 5) :
    (admitChange q).valid st = true := by
  simp only [StationChange.valid, admitChange, Bool.and_eq_true]
  refine ⟨⟨⟨⟨⟨⟨⟨Eq.refl true, optionAll_carried fun h => ?_⟩, optionAll_carried fun h => ?_⟩, optionAll_carried fun h => ?_⟩, rfl⟩,
    optionAll_carried fun h => ?_⟩, rfl⟩, trivial⟩
  · exact decide_eq_true (owner h)
  · simp [tenantSetValid, admitted h]
  · simpa [inRange] using surcharge h
  · simpa [inRange] using weight h

theorem admitChange_present {q : Request} {s : State}
    (owner : (q.field 1 1).testBit 0 = true → s.tenants.has (q.field 2 1) = true)
    (admitted : (q.field 1 1).testBit 1 = true → ∀ t, t < 32 → (q.field 3 4).testBit t = true → s.tenants.has t = true) :
    (admitChange q).tenantsPresent s = true := by
  simp only [StationChange.tenantsPresent, admitChange, Bool.and_eq_true]
  refine ⟨optionAll_carried owner, optionAll_carried fun h => List.all_eq_true.2 fun t ht => ?_⟩
  obtain ⟨hlt, bit⟩ := mem_tenantSetOf.1 ht
  exact admitted h t hlt bit

section
variable {q : Request} {s : State} {x : Station}

/-- ADMIT STATION once its authority, ranges and record are found good: the pool decides. -/
theorem admitStationRule_eq (role : q.role = 0 ∨ q.role = 1) (hst : q.field 0 1 < 96) (hm : q.field 1 1 < 16)
    (valid : (admitChange q).valid (q.field 0 1) = true) (hx : s.stations.fetch (q.field 0 1) = some x)
    (present : (admitChange q).tenantsPresent s = true) (probation : x.state = .probation) :
    admitStationRule q s =
      if 2 ^ ((admitChange q).apply x).weight ≤ s.freePool then
        .ok { state := s.admitAs (q.field 0 1) ((admitChange q).apply x)
              body := .admitted (s.derivedState (q.field 0 1)) (2 ^ ((admitChange q).apply x).weight) }
      else .error .full := by
  have authorised : authorise .admitStation q [] s = .ok () := authorise_building [] s role (by decide)
  have range : (q.field 0 1 < Config.stationCount && q.field 1 1 < 2 ^ 4 && (admitChange q).valid (q.field 0 1)) = true := by
    simp [valid, hm, show q.field 0 1 < Config.stationCount from hst]
  simp only [admitStationRule, authorised, require_of range, hx, demand, present, probation, decide_true, require_true,
    except_bind_ok]
  by_cases room : 2 ^ ((admitChange q).apply x).weight ≤ s.freePool
  · rw [if_pos room, require_of (decide_eq_true room)]; rfl
  · rw [if_neg room, decide_eq_false room]; rfl

end

/-- Settles O34: the record written is the change applied, and each delay by its link, its cover and its length. -/
theorem admitPutsStationInDerivedState : Obligations.AdmitPutsStationInDerivedState := by
  refine ⟨?admitted, fun _ _ => rfl, ?delay⟩
  case admitted =>
    intro s q rest st m w x turn role hst hlt hm hm16 hx probation owner admitted surcharge weight hw
    subst hst hm
    have rule := admitStationRule_eq (s := s.leaving rest) role hlt hm16
      (admitChange_valid _ (fun h => (owner h).1) (fun h => (admitted h).1) surcharge weight) hx
      (admitChange_present (fun h => (owner h).2) (fun h => (admitted h).2)) probation
    obtain rfl : w = ((admitChange q).apply x).weight := by rw [admitChange_apply, hw]
    refine ⟨fun full => onRequest_refused turn (rule.trans (if_neg (Nat.not_le.2 full))),
      fun room => ⟨(s.stations.put (q.field 0 1) ((admitChange q).apply x)).update (q.field 0 1)
          (fun x => { x with state := s.derivedState (q.field 0 1) }), onRequest_ok turn (rule.trans (if_pos room)), ?_,
        fun k hk => (Table.fetch_update_other _ _ hk).trans (Table.fetch_put_other _ _ hk)⟩⟩
    rw [Table.fetch_update_same, Table.fetch_put_same, admitChange_apply]
    rfl
  case delay =>
    intro s st c
    refine ⟨fun h => State.startDelay_idle h, fun f d hf hl => ?_⟩
    by_cases covered : c = .toner ∧ s.allCovered st f.colours = true
    · refine ⟨_, fun k hk => Table.fetch_update_other s.faults (fun f => { f with link := .suppressed }) hk,
        fun hc _ => ⟨State.startDelay_suppressed hf hl hc covered.2, State.setLink_faultAt hf .suppressed⟩, fun uncovered => ?_⟩
      obtain ⟨col, held, bare⟩ := uncovered covered.1
      simp [State.allCovered_iff.1 covered.2 col held] at bare
    · refine ⟨_, fun k hk => Table.fetch_update_other s.faults
          (fun f => { f with link := .waiting (some (s.minuteAfter (s.policy.delay c))) }) hk,
        fun hc all => absurd ⟨hc, State.allCovered_iff.2 all⟩ covered, fun _ => ⟨State.startDelay_due hf hl covered, fun delay =>
          ⟨State.startDelay_waits hf hl covered delay, State.setLink_faultAt hf _⟩⟩⟩

end Sys2Proof.Machine
end

section
/-! The hand-over of a station's state to the release engine, and parking (O35). -/

namespace Sys2Proof.Machine

/-! ### What sending a job back changes -/

/-- Nothing has changed but the store, the accounts, the stations and the notice queue: what returns may change. -/
def State.ReturnsOnly (s t : State) : Prop :=
  t = { s with
    jobs := t.jobs, generations := t.generations, users := t.users, tenants := t.tenants, stations := t.stations
    notices := t.notices, lost := t.lost }

theorem State.ReturnsOnly.trans {s t u : State} (h : s.ReturnsOnly t) (k : t.ReturnsOnly u) : s.ReturnsOnly u := by
  unfold State.ReturnsOnly at h k ⊢
  rw [k, h]

theorem State.ReturnsOnly.clock {s t : State} (h : s.ReturnsOnly t) : t.clock = s.clock := by
  unfold State.ReturnsOnly at h
  rw [h]

theorem State.ReturnsOnly.abandonWindow {s t : State} (h : s.ReturnsOnly t) : t.abandonWindow = s.abandonWindow := by
  unfold State.ReturnsOnly at h
  rw [h]

theorem State.notify_returnsOnly (s : State) (b : NoticeBody) : s.ReturnsOnly (s.notify b) := by
  unfold State.ReturnsOnly
  rw [State.notify_eq]

theorem State.releaseReservation_returnsOnly (s : State) (j : Job) : s.ReturnsOnly (s.releaseReservation j) := by
  unfold State.releaseReservation
  split
  · exact rfl
  · exact rfl

theorem State.expireIfPassed_returnsOnly (s : State) (h : Nat) : s.ReturnsOnly (s.expireIfPassed h) := by
  unfold State.expireIfPassed
  split
  · split
    · rename_i j _ _
      exact State.ReturnsOnly.trans (t := s.deleteJob j) rfl (State.notify_returnsOnly _ _)
    · exact rfl
  · exact rfl

theorem State.sendBack_returnsOnly (s : State) (st : Nat) (j : Job) (b : NoticeBody) :
    s.ReturnsOnly (s.sendBack st j b) :=
  (((State.ReturnsOnly.trans (t := s.removeEntry st j.handle) rfl (State.releaseReservation_returnsOnly _ j)).trans
    (u := ((s.removeEntry st j.handle).releaseReservation j).updateJob j.handle Job.returned) rfl).trans
    (State.notify_returnsOnly _ b)).trans (State.expireIfPassed_returnsOnly _ _)

theorem State.returnEntry_returnsOnly (st : Nat) (r : ReturnReason) (s : State) (h : Nat) :
    s.ReturnsOnly (State.returnEntry st r s h) := by
  unfold State.returnEntry
  split
  · exact State.sendBack_returnsOnly _ _ _ _
  · exact rfl

theorem State.returnEntries_returnsOnly (st : Nat) (r : ReturnReason) (hs : List Nat) (s : State) :
    s.ReturnsOnly (hs.foldl (State.returnEntry st r) s) := by
  induction hs generalizing s with
  | nil => exact rfl
  | cons h hs ih => exact (State.returnEntry_returnsOnly st r s h).trans (ih _)

/-! ### What a return leaves in the queues -/

theorem State.releaseReservation_stations (s : State) (j : Job) : (s.releaseReservation j).stations = s.stations := by
  unfold State.releaseReservation
  split
  · rfl
  · rfl

theorem State.expireIfPassed_stations (s : State) (h : Nat) : (s.expireIfPassed h).stations = s.stations := by
  unfold State.expireIfPassed
  split
  · split
    · rw [State.notify_stations]; rfl
    · rfl
  · rfl

theorem State.sendBack_stations (s : State) (st : Nat) (j : Job) (b : NoticeBody) :
    (s.sendBack st j b).stations = (s.removeEntry st j.handle).stations := by
  rw [State.sendBack, State.expireIfPassed_stations, State.notify_stations, State.updateJob_stations,
    State.releaseReservation_stations]

/-- A returned job leaves the queue, under the handle it is returned by. -/
theorem State.returnEntry_stations (st : Nat) (r : ReturnReason) {s : State} (c : s.Canonical) (h : Nat) :
    (State.returnEntry st r s h).stations = (s.removeEntry st h).stations := by
  unfold State.returnEntry
  split
  · rename_i j hj
    rw [State.sendBack_stations, c.handle_of_named hj]
  · rfl

/-- Returning a list of handles leaves the entries of no other handle. -/
theorem State.returnEntries_queue (st : Nat) (r : ReturnReason) {hs : List Nat} {s : State} (c : s.Canonical)
    {x : Station} (hx : s.stations.fetch st = some x) :
    ∃ t, hs.foldl (State.returnEntry st r) s = t ∧
      t.stations.fetch st = some { x with queue := x.queue.filter (fun e => !hs.contains e.handle) } := by
  refine ⟨_, rfl, ?_⟩
  induction hs generalizing s x with
  | nil => simpa using hx
  | cons h hs ih =>
    have first : (State.returnEntry st r s h).stations.fetch st =
        some { x with queue := x.queue.filter (fun e => e.handle ≠ h) } := by
      rw [State.returnEntry_stations st r c h]
      simp [State.removeEntry, State.updateStation, Table.fetch_update_same, hx]
    rw [List.foldl_cons, ih ((State.returnEntry_keeps st r s h).canonical c) first]
    simp only [List.filter_filter]
    congr 3
    funext e
    simp [Bool.and_comm]

/-! ### The hand-over -/

theorem FaultEntry.blocking_iff {f : FaultEntry} : f.blocking = true ↔ f.cls ≠ .toner ∨ f.colours.k = true := by
  cases h : f.cls <;> simp [FaultEntry.blocking, h]

theorem userClearable_iff {c : FaultClass} : userClearable c = true ↔ c = .jam ∨ c = .door ∨ c = .paper := by
  cases c <;> simp [userClearable]

theorem FaultEntry.windowRuns_iff {f : FaultEntry} :
    f.windowRuns = true ↔ (f.cls = .jam ∨ f.cls = .door ∨ f.cls = .paper) ∧ ∃ d, f.link = .waiting d := by
  rw [FaultEntry.windowRuns, Bool.and_eq_true, userClearable_iff]
  cases f.link <;> simp

theorem State.holdOverAllowed_iff {s : State} {st : Nat} :
    s.holdOverAllowed st = true ↔ ∀ f ∈ s.activeFaults st, f.cls ≠ .toner ∨ f.colours.k = true →
      (f.cls = .jam ∨ f.cls = .door ∨ f.cls = .paper) ∧ ∃ d, f.link = .waiting d := by
  simp only [State.holdOverAllowed, List.all_eq_true, List.mem_filter, FaultEntry.blocking_iff, and_imp,
    FaultEntry.windowRuns_iff]

theorem Entry.backInUse_eq :
    Entry.backInUse = fun e => if e.sub = .sent then { e with abandonDeadline := none } else { e with holdOver := false } := by
  funext e
  cases h : e.sub <;> simp [Entry.backInUse, h]

theorem Entry.abandonBy_eq (m : Nat) :
    Entry.abandonBy m = fun e =>
      if e.sub = .sent then { e with abandonDeadline := some (e.abandonDeadline.getD m) } else e := by
  funext e
  cases h : e.sub <;> simp [Entry.abandonBy, h]

theorem Entry.abandonBy_heldOver (m : Nat) (e : Entry) :
    Entry.abandonBy m e.heldOver =
      if e.sub = .sent then { e with abandonDeadline := some (e.abandonDeadline.getD m) } else { e with holdOver := true } := by
  cases h : e.sub <;> simp [Entry.abandonBy, Entry.heldOver, h]

theorem Station.waitingHandles_all (x : Station) :
    x.waitingHandles (fun _ => true) = (x.queue.filter (fun e => e.sub = .waiting)).map (·.handle) := by
  simp [Station.waitingHandles]

/-- An entry back in use waits as it did. -/
theorem Station.waitingHandles_backInUse (x : Station) (p : Entry → Bool) (hp : ∀ e : Entry, p e.backInUse = p e) :
    ({ x with queue := x.queue.map Entry.backInUse } : Station).waitingHandles p = x.waitingHandles p := by
  have sub (e : Entry) : e.backInUse.sub = e.sub := by cases h : e.sub <;> simp [Entry.backInUse, h]
  have handle (e : Entry) : e.backInUse.handle = e.handle := by cases h : e.sub <;> simp [Entry.backInUse, h]
  simp [Station.waitingHandles, List.filter_map, Function.comp_def, sub, handle, hp]

section
variable {s : State} {st : Nat} {x : Station}

theorem State.mapQueue_fetch (hx : s.stations.fetch st = some x) (f : Entry → Entry) :
    (s.mapQueue st f).stations.fetch st = some { x with queue := x.queue.map f } := by
  simp [State.mapQueue, State.updateStation, Table.fetch_update_same, hx]

theorem State.handOver_idle (hx : s.stations.fetch st = some x) (h : x.state = .probation ∨ x.state = .parked) :
    s.handOver st = s := by
  rcases h with h | h <;> simp [State.handOver, hx, h]

theorem State.handOver_inService (hx : s.stations.fetch st = some x) (h : x.state = .inService) :
    s.handOver st = (s.mapQueue st Entry.backInUse).sendCheck st := by simp [State.handOver, hx, h]

theorem State.handOver_degraded (hx : s.stations.fetch st = some x) (h : x.state = .degraded) :
    s.handOver st = (((x.queue.filter (fun e => e.sub = .waiting)).map (·.handle)).foldl (State.adjustColour st)
      (s.mapQueue st Entry.backInUse)).sendCheck st := by
  rw [← Station.waitingHandles_all, ← Station.waitingHandles_backInUse x _ fun _ => rfl]
  simp [State.handOver, hx, h, State.adjustWaiting, State.mapQueue_fetch hx]

theorem State.handOver_heldOver (hx : s.stations.fetch st = some x) (h : x.state = .outOfService)
    (allowed : s.holdOverAllowed st = true) :
    s.handOver st = (s.mapQueue st Entry.heldOver).mapQueue st (Entry.abandonBy (s.minuteAfter s.abandonWindow)) := by
  simp [State.handOver, hx, h, allowed]

theorem State.handOver_returned (hx : s.stations.fetch st = some x) (h : x.state = .outOfService)
    (allowed : s.holdOverAllowed st = false) :
    s.handOver st = (((x.queue.filter (fun e => e.sub = .waiting)).map (·.handle)).foldl (State.returnEntry st .fault)
      s).mapQueue st (Entry.abandonBy (s.minuteAfter s.abandonWindow)) := by
  simp [State.handOver, hx, h, allowed, State.returnWaiting, Station.waitingHandles_all]

end

/-! ### PARK STATION and UNPARK STATION -/

theorem namedStation_building {k : Kind} {q : Request} {s : State} {x : Station} (role : q.role = 0 ∨ q.role = 1)
    (hk : k.permission 1 ≠ .no) (hst : q.field 0 1 < 96) (hx : s.stations.fetch (q.field 0 1) = some x) :
    namedStation k q s = .ok (q.field 0 1, x) := by
  simp [namedStation, authorise_building _ s role hk, require_of (decide_eq_true (p := _ < Config.stationCount) hst), hx,
    demand]

section
variable {q : Request} {s : State} {st : Nat} {x : Station}

theorem parkStationRule_probation (named : namedStation .parkStation q s = .ok (st, x)) (h : x.state = .probation) :
    parkStationRule q s = .error .wrongState := by simp [parkStationRule, named, h, require]

theorem parkStationRule_parked (named : namedStation .parkStation q s = .ok (st, x)) (h : x.state = .parked) :
    parkStationRule q s = .ok { state := s, body := .parked 0 } := by simp [parkStationRule, named, h]

theorem parkStationRule_busy (named : namedStation .parkStation q s = .ok (st, x)) (h1 : x.state ≠ .probation)
    (h2 : x.state ≠ .parked) (sent : x.hasSent = true) : parkStationRule q s = .error .busy := by
  simp [parkStationRule, named, h1, h2, sent, require]

theorem parkStationRule_ok (named : namedStation .parkStation q s = .ok (st, x)) (h1 : x.state ≠ .probation)
    (h2 : x.state ≠ .parked) (sent : x.hasSent = false) :
    parkStationRule q s = .ok { state := s.park st x, body := .parked (x.waitingHandles (fun _ => true)).length } := by
  simp [parkStationRule, named, h1, h2, sent]

theorem unparkStationRule_probation (named : namedStation .unparkStation q s = .ok (st, x)) (h : x.state = .probation) :
    unparkStationRule q s = .error .wrongState := by simp [unparkStationRule, named, h, require]

theorem unparkStationRule_other (named : namedStation .unparkStation q s = .ok (st, x)) (h1 : x.state ≠ .probation)
    (h2 : x.state ≠ .parked) : unparkStationRule q s = .ok { state := s, body := .unparked x.state } := by
  simp [unparkStationRule, named, h1, h2]

theorem unparkStationRule_parked (named : namedStation .unparkStation q s = .ok (st, x)) (h : x.state = .parked) :
    unparkStationRule q s = .ok { state := s.unpark st, body := .unparked (s.derivedState st) } := by
  simp [unparkStationRule, named, h]

end

/-- Settles O35: the two requests by the station's state, and the hand-over by the state it finds. -/
theorem parkAndUnparkMoveTheStation : Obligations.ParkAndUnparkMoveTheStation := by
  refine ⟨?park, ?unpark, ?handOver, ?returns⟩
  case park =>
    intro s q rest st x turn role hst hlt canonical hx
    subst hst
    have named := namedStation_building (k := .parkStation) (s := s.leaving rest) role (by decide) hlt hx
    refine ⟨fun h => onRequest_refused turn (parkStationRule_probation named h),
      fun h => onRequest_ok turn (parkStationRule_parked named h),
      fun h1 h2 sent => onRequest_refused turn (parkStationRule_busy named h1 h2 (Station.hasSent_iff.2 sent)),
      fun h1 h2 waiting => ?_⟩
    have unsent : x.hasSent = false := by
      rw [Bool.eq_false_iff, ne_eq, Station.hasSent_iff]
      rintro ⟨e, he, sent⟩
      simp [waiting e he] at sent
    have all : x.queue.filter (fun e => e.sub = .waiting) = x.queue := List.filter_eq_self.2 (by simpa using waiting)
    have rule := parkStationRule_ok named h1 h2 unsent
    rw [Station.waitingHandles_all, all, List.length_map] at rule
    have entered : ((s.leaving rest).enterState (q.field 0 1) x.state .parked).stations.fetch (q.field 0 1) =
        some { x with state := .parked } := by
      rw [State.enterState, State.notify_stations]
      exact (Table.fetch_update_same s.stations _ _).trans (by rw [hx]; rfl)
    obtain ⟨t, ht, left⟩ := State.returnEntries_queue (q.field 0 1) .parked (hs := x.queue.map (·.handle))
      ((State.enterState_kept _ _ _ _).keeps.canonical ((State.leaving_kept turn.front).keeps.canonical canonical)) entered
    have parked : (s.leaving rest).park (q.field 0 1) x = t := by
      rw [State.park, State.returnWaiting, entered]
      simpa [Station.waitingHandles_all, all] using ht
    refine ⟨s.stations.update (q.field 0 1) (fun x => { x with state := .parked }), _, _, onRequest_ok turn rule, rfl,
      (Table.fetch_update_same s.stations _ _).trans (by rw [hx]; rfl), fun k hk => Table.fetch_update_other _ _ hk,
      parked ▸ left, rfl, ?_⟩
    rw [List.filter_eq_nil_iff]
    intro e he
    simpa using ⟨e, he, rfl⟩
  case unpark =>
    intro s q rest st x turn role hst hlt hx
    subst hst
    have named := namedStation_building (k := .unparkStation) (s := s.leaving rest) role (by decide) hlt hx
    refine ⟨fun h => onRequest_refused turn (unparkStationRule_probation named h),
      fun h1 h2 => onRequest_ok turn (unparkStationRule_other named h1 h2),
      fun h => ⟨s.stations.update (q.field 0 1) (fun x => { x with state := s.derivedState (q.field 0 1) }),
        onRequest_ok turn (unparkStationRule_parked named h), ?_, fun k hk => Table.fetch_update_other _ _ hk⟩⟩
    rw [Table.fetch_update_same, hx]; rfl
  case handOver =>
    intro s st m x waiting hx hw hm
    subst hw hm
    refine ⟨fun h => State.handOver_idle hx h, fun h => ?inUse, fun h allowed => ?heldOver, fun b h barred hb => ?returned⟩
    case inUse =>
      rw [← Entry.backInUse_eq]
      exact ⟨_, State.mapQueue_fetch hx _, fun k hk => Table.fetch_update_other s.stations _ hk,
        fun h => State.handOver_inService hx h, fun h => State.handOver_degraded hx h⟩
    case heldOver =>
      refine ⟨_, State.handOver_heldOver hx h (State.holdOverAllowed_iff.2 allowed), ?_,
        fun k hk => (Table.fetch_update_other _ _ hk).trans (Table.fetch_update_other s.stations _ hk)⟩
      refine (State.mapQueue_fetch (State.mapQueue_fetch hx _) _).trans ?_
      rw [List.map_map]
      exact congrArg some (congrArg (fun f => { x with queue := x.queue.map f }) (funext fun e => Entry.abandonBy_heldOver _ e))
    case returned =>
      subst hb
      have only := State.returnEntries_returnsOnly st .fault ((x.queue.filter (fun e => e.sub = .waiting)).map (·.handle)) s
      have denied : s.holdOverAllowed st = false := by
        obtain ⟨f, hf, blocks, stays⟩ := barred
        rw [Bool.eq_false_iff, ne_eq, State.holdOverAllowed_iff]
        intro all
        obtain ⟨cls, d, link⟩ := all f hf blocks
        rcases stays with ⟨jam, door, paper⟩ | unlinked
        · exact cls.elim jam (fun h => h.elim door paper)
        · exact unlinked d link
      refine ⟨only.clock, only.abandonWindow, _, State.handOver_returned hx h denied, ?_,
        fun k hk => Table.fetch_update_other _ _ hk⟩
      rw [← Entry.abandonBy_eq]
      exact Table.fetch_update_same _ _ _
  case returns =>
    refine fun s st reason => ⟨fun x p hx => by simp [State.returnWaiting, hx, Station.waitingHandles], fun h j hj => ?_⟩
    simp [State.returnEntry, hj, Job.returnState]

end Sys2Proof.Machine
end

section
/-! SET STATION (O36): the carried fields, and what a change of capabilities does. -/

namespace Sys2Proof.Machine

/-! ### Several consumable records at once -/

theorem Table.fetch_update_map {α : Type} (t : Table α) (n : Nat) (f : α → α) (k : Nat) :
    (t.update n f).fetch k = (t.fetch k).map (fun a => if k = n then f a else a) := by
  rw [Table.fetch_update]
  split
  · rfl
  · exact Option.map_id'.symm

/-- The keys of a station's records of some colours. -/
def consumableKeys (st : Nat) (cols : List Toner) : List Nat := cols.map (consumableKey st)

theorem Table.fetch_putAll {α : Type} (st : Nat) (cols : List Toner) (t : Table α) (a : α) (k : Nat) :
    (cols.foldl (fun t col => t.put (consumableKey st col) a) t).fetch k =
      if k ∈ consumableKeys st cols then some a else t.fetch k := by
  induction cols generalizing t with
  | nil => simp [consumableKeys]
  | cons col cols ih =>
    rw [List.foldl_cons, ih]
    by_cases h : k ∈ consumableKeys st cols
    · simp [consumableKeys] at h ⊢; simp [h]
    · by_cases he : k = consumableKey st col
      · simp [he, consumableKeys]
      · rw [if_neg h, Table.fetch_put_other _ _ he, if_neg]
        simp [consumableKeys] at h ⊢; exact ⟨he, h⟩

theorem Table.fetch_removeAll {α : Type} (st : Nat) (cols : List Toner) {t : Table α} (hs : t.Sorted) (k : Nat) :
    (cols.foldl (fun t col => t.remove (consumableKey st col)) t).fetch k =
      if k ∈ consumableKeys st cols then none else t.fetch k := by
  induction cols generalizing t with
  | nil => simp [consumableKeys]
  | cons col cols ih =>
    rw [List.foldl_cons, ih (Table.sorted_remove hs _)]
    by_cases he : k = consumableKey st col
    · simp [he, consumableKeys, Table.fetch_remove_same hs]
    · simp [Table.fetch_remove_other _ he, consumableKeys, he]

theorem mem_colourKeys {st : Nat} {col : Toner} (h : col ≠ .k) : st * 4 + tonerCode col ∈ consumableKeys st colourToners := by
  cases col with
  | k => exact absurd rfl h
  | _ => simp [consumableKeys, colourToners, consumableKey]

theorem not_mem_colourKeys {st k : Nat} (h : k / 4 ≠ st ∨ k = st * 4) : k ∉ consumableKeys st colourToners := by
  simp [consumableKeys, colourToners, consumableKey, tonerCode]
  omega

/-! ### A change of capabilities -/

theorem SizeSet.isEmpty_iff {x : SizeSet} : x.isEmpty = true ↔ x = ⟨false, false, false⟩ := by
  obtain ⟨s, l, e⟩ := x
  cases s <;> cases l <;> cases e <;> decide

section
variable {s : State} {st : Nat} {old new : Station} {y : Station}

theorem State.adjustWaiting_eq (hy : s.stations.fetch st = some y) (f : State → Nat → State) :
    s.adjustWaiting st f = ((y.queue.filter (fun e => e.sub = .waiting)).map (·.handle)).foldl f s := by
  simp [State.adjustWaiting, hy, Station.waitingHandles_all]

/-- The gain of the colour capability: the records of C, M and Y, whose levels are asked for (R79, R129). -/
def State.gainColour (s : State) (st : Nat) : State := (s.addConsumables st colourToners).handCommand st .queryLevels

/-- The WAITING entries are gone through and the send check runs, when a capability was lost (R79). -/
def State.afterLoss (s : State) (st : Nat) (colourLost : Bool) (lost : SizeSet) : State :=
  (s.adjustWaiting st (State.adjustEntry st colourLost lost)).sendCheck st

theorem State.capabilitiesChanged_same (h : old.colour = new.colour) :
    s.capabilitiesChanged st old new =
      if (old.sizes.lostIn new.sizes).isEmpty then s else s.afterLoss st false (old.sizes.lostIn new.sizes) := by
  unfold State.capabilitiesChanged
  rw [h]
  cases new.colour <;> cases hl : (old.sizes.lostIn new.sizes).isEmpty <;> simp [hl, State.afterLoss]

theorem State.capabilitiesChanged_gain (ho : old.colour = false) (hn : new.colour = true) :
    s.capabilitiesChanged st old new =
      if (old.sizes.lostIn new.sizes).isEmpty then s.gainColour st
      else (s.gainColour st).afterLoss st false (old.sizes.lostIn new.sizes) := by
  unfold State.capabilitiesChanged
  cases hl : (old.sizes.lostIn new.sizes).isEmpty <;> simp [hl, ho, hn, State.gainColour, State.afterLoss]

theorem State.capabilitiesChanged_loss (ho : old.colour = true) (hn : new.colour = false) :
    s.capabilitiesChanged st old new = (s.loseColour st).afterLoss st true (old.sizes.lostIn new.sizes) := by
  simp [State.capabilitiesChanged, ho, hn, State.afterLoss]

/-- A change that loses and gains nothing has no effect (R79). -/
theorem State.capabilitiesChanged_none (h : new.colour = old.colour)
    (kept : ∀ z, old.sizes.contains z = true → new.sizes.contains z = true) : s.capabilitiesChanged st old new = s := by
  have nothing : (old.sizes.lostIn new.sizes).isEmpty = true := by
    have ks : old.sizes.s = true → new.sizes.s = true := kept .s
    have kl : old.sizes.l = true → new.sizes.l = true := kept .l
    have ke : old.sizes.e = true → new.sizes.e = true := kept .e
    simp only [SizeSet.isEmpty, SizeSet.lostIn, Bool.not_eq_true', Bool.or_eq_false_iff, Bool.and_eq_false_iff,
      Bool.not_eq_false']
    refine ⟨⟨?_, ?_⟩, ?_⟩
    · cases h : old.sizes.s <;> simp_all
    · cases h : old.sizes.l <;> simp_all
    · cases h : old.sizes.e <;> simp_all
  rw [State.capabilitiesChanged_same h.symm, if_pos nothing]

end

/-! ### One WAITING entry -/

section
variable {s : State} {st h : Nat} {j : Job}

theorem State.returnEntry_named (hj : s.jobNamed h = some j) (hh : j.handle = h) (r : ReturnReason) :
    State.returnEntry st r s h =
      s.sendBack st j (.jobReturned h j.owner j.spoolRef st (if j.committed then .held else .receiving) r) := by
  simp [State.returnEntry, hj, hh, Job.returnState]

theorem State.adjustMedia_kept (lost : SizeSet) (hj : s.jobNamed h = some j)
    (fits : j.charging = none ∨ lost.contains j.descriptor.sizeClass = false) : State.adjustMedia st lost s h = s := by
  rcases fits with fits | fits <;> simp [State.adjustMedia, hj, fits]

theorem State.adjustMedia_returned {lost : SizeSet} (hj : s.jobNamed h = some j) (released : j.charging ≠ none)
    (gone : lost.contains j.descriptor.sizeClass = true) :
    State.adjustMedia st lost s h = State.returnEntry st .media s h := by
  have : j.charging.isSome = true := by rwa [Option.isSome_iff_ne_none]
  simp [State.adjustMedia, hj, this, gone]

theorem State.adjustColour_kept {c : Charging} (hj : s.jobNamed h = some j) (hc : j.charging = some c)
    (mono : j.descriptor.colour = false ∨ c.fallback = true) : State.adjustColour st s h = s := by
  rcases mono with mono | mono <;> simp [State.adjustColour, hj, hc, mono]

theorem State.adjustColour_returned {c : Charging} (hj : s.jobNamed h = some j) (hc : j.charging = some c)
    (colour : j.descriptor.colour = true) (flag : c.fallback = false) (unwilling : j.descriptor.fallback = false) :
    State.adjustColour st s h = State.returnEntry st .colour s h := by
  simp [State.adjustColour, hj, hc, colour, flag, unwilling]

theorem State.adjustColour_fallsBack {c : Charging} (hj : s.jobNamed h = some j) (hc : j.charging = some c)
    (colour : j.descriptor.colour = true) (flag : c.fallback = false) (willing : j.descriptor.fallback = true) :
    State.adjustColour st s h = s.fallBack st j c := by
  simp [State.adjustColour, hj, hc, colour, flag, willing]

end

/-! ### The request -/

theorem setChange_apply (q : Request) (x : Station) :
    (setChange q).apply x = { x with
      colour := if (q.field 1 2).testBit 0 then (q.field 3 1).testBit 0 else x.colour
      duplex := if (q.field 1 2).testBit 1 then (q.field 3 1).testBit 1 else x.duplex
      sizes := if (q.field 1 2).testBit 2 then sizeSetOf (q.field 4 1) else x.sizes
      owner := if (q.field 1 2).testBit 3 then q.field 5 1 else x.owner
      admitted := if (q.field 1 2).testBit 4 then tenantSetOf (q.field 6 4) else x.admitted
      surcharge := if (q.field 1 2).testBit 5 then q.field 10 1 else x.surcharge
      floor := if (q.field 1 2).testBit 6 then q.field 11 1 else x.floor
      neighbours := if (q.field 1 2).testBit 7 then (neighboursOf q).2 else x.neighbours
      weight := if (q.field 1 2).testBit 8 then q.field 17 1 else x.weight
      midWater := if (q.field 1 2).testBit 9 then
          min (q.field 18 1) (2 ^ (if (q.field 1 2).testBit 8 then q.field 17 1 else x.weight))
        else if (q.field 1 2).testBit 8 then 2 ^ (if (q.field 1 2).testBit 8 then q.field 17 1 else x.weight) / 2
        else x.midWater } := by
  have neighbours : ((setChange q).neighbours.map (fun p => p.2)).getD x.neighbours =
      if (q.field 1 2).testBit 7 then (neighboursOf q).2 else x.neighbours := by
    simp only [setChange]; split <;> rfl
  have midWater (w : Nat) : (setChange q).midWaterAt w x.midWater =
      if (q.field 1 2).testBit 9 then min (q.field 18 1) (2 ^ w)
      else if (q.field 1 2).testBit 8 then 2 ^ w / 2 else x.midWater := by
    have weight : (setChange q).weight.isSome = (q.field 1 2).testBit 8 := carried_isSome _ _ _
    have mark : (setChange q).midWater = carried (q.field 1 2) 9 (q.field 18 1) := rfl
    rw [StationChange.midWaterAt, weight, mark, carried]
    by_cases h : (q.field 1 2).testBit 9 = true
    · rw [if_pos h, if_pos h]
    · rw [if_neg h, if_neg h]
  simp only [StationChange.apply, neighbours, midWater]
  simp only [setChange, carried_getD, carried_map_getD]

theorem setChange_valid {q : Request} {st : Nat} (sizes : (q.field 1 2).testBit 2 = true → 1 ≤ q.field 4 1 ∧ q.field 4 1 ≤ 7)
    (owner : (q.field 1 2).testBit 3 = true → q.field 5 1 < 32)
    (admitted : (q.field 1 2).testBit 4 = true → (q.field 6 4).testBit 0 = false)
    (surcharge : (q.field 1 2).testBit 5 = true → q.field 10 1 ≤ 200)
    (floor : (q.field 1 2).testBit 6 = true → q.field 11 1 ≤ 127)
    (neighbours : (q.field 1 2).testBit 7 = true → neighboursValid st (neighboursOf q) = true)
    (weight : (q.field 1 2).testBit 8 = true → 1 ≤ q.field 17 1 ∧ q.field 17 1 ≤ 5)
    (midWater : (q.field 1 2).testBit 9 = true → q.field 18 1 ≠ 0) : (setChange q).valid st = true := by
  simp only [StationChange.valid, setChange, Bool.and_eq_true]
  refine ⟨⟨⟨⟨⟨⟨⟨optionAll_carried fun h => ?_, optionAll_carried fun h => ?_⟩, optionAll_carried fun h => ?_⟩,
    optionAll_carried fun h => ?_⟩, optionAll_carried fun h => ?_⟩, optionAll_carried fun h => ?_⟩,
    optionAll_carried fun h => ?_⟩, ?_⟩
  · simpa [inRange] using sizes h
  · exact decide_eq_true (owner h)
  · simp [tenantSetValid, admitted h]
  · simpa [inRange] using surcharge h
  · simpa [inRange] using floor h
  · simpa [inRange] using weight h
  · simpa using midWater h
  · cases h : (q.field 1 2).testBit 7 with
    | true => exact neighbours h
    | false => rfl

theorem setChange_capabilities {q : Request}
    (byte : (q.field 1 2).testBit 0 = true ∨ (q.field 1 2).testBit 1 = true → q.field 3 1 < 4) :
    (setChange q).capabilitiesValid = true := by
  simp only [StationChange.capabilitiesValid, setChange, Bool.and_eq_true]
  exact ⟨optionAll_carried fun h => decide_eq_true (byte (.inl h)), optionAll_carried fun h => decide_eq_true (byte (.inr h))⟩

theorem setChange_present {q : Request} {s : State}
    (owner : (q.field 1 2).testBit 3 = true → s.tenants.has (q.field 5 1) = true)
    (admitted : (q.field 1 2).testBit 4 = true → ∀ t, t < 32 → (q.field 6 4).testBit t = true → s.tenants.has t = true) :
    (setChange q).tenantsPresent s = true := by
  simp only [StationChange.tenantsPresent, setChange, Bool.and_eq_true]
  refine ⟨optionAll_carried owner, optionAll_carried fun h => List.all_eq_true.2 fun t ht => ?_⟩
  obtain ⟨hlt, bit⟩ := mem_tenantSetOf.1 ht
  exact admitted h t hlt bit

theorem setChange_needsParked {q : Request} :
    (setChange q).needsParked = true ↔ (q.field 1 2).testBit 3 = true ∨ (q.field 1 2).testBit 4 = true ∨
      (q.field 1 2).testBit 5 = true ∨ (q.field 1 2).testBit 8 = true := by
  simp only [StationChange.needsParked, setChange, carried_isSome, Bool.or_eq_true, or_assoc]

theorem setStationRule_ok {q : Request} {s : State} {x : Station} (role : q.role = 0 ∨ q.role = 1) (hst : q.field 0 1 < 96)
    (hm : q.field 1 2 < 1024) (valid : (setChange q).valid (q.field 0 1) = true)
    (capabilities : (setChange q).capabilitiesValid = true) (hx : s.stations.fetch (q.field 0 1) = some x)
    (present : (setChange q).tenantsPresent s = true) (parked : (setChange q).needsParked = true → x.state = .parked)
    (room : (q.field 1 2).testBit 8 = true → 2 ^ ((setChange q).apply x).weight ≤ x.capacity + s.freePool) :
    let t := s.amendStation (q.field 0 1) x ((setChange q).apply x)
    setStationRule q s = .ok { state := t, body := t.stationReply (q.field 0 1) } := by
  have authorised : authorise .setStation q [] s = .ok () := authorise_building [] s role (by decide)
  have range : (q.field 0 1 < Config.stationCount && q.field 1 2 < 2 ^ 10 && (setChange q).valid (q.field 0 1) &&
      (setChange q).capabilitiesValid) = true := by
    simp [valid, capabilities, hm, show q.field 0 1 < Config.stationCount from hst]
  have state : (!(setChange q).needsParked || decide (x.state = .parked)) = true := by
    cases h : (setChange q).needsParked
    · rfl
    · simp [parked h]
  have pool : ((setChange q).weight.isNone || decide (2 ^ ((setChange q).apply x).weight ≤ x.capacity + s.freePool)) = true := by
    have carries : (setChange q).weight.isNone = !(q.field 1 2).testBit 8 := by
      rw [← Option.not_isSome]; exact congrArg _ (carried_isSome _ _ _)
    rw [carries]
    cases h : (q.field 1 2).testBit 8
    · rfl
    · simp [room h]
  simp only [setStationRule, authorised, range, hx, demand, present, state, pool, require_true, except_bind_ok]

/-- Settles O36: the record written is the change applied; then the capabilities by loss and gain, entry by entry. -/
theorem setStationWritesCarriedFields : Obligations.SetStationWritesCarriedFields := by
  refine ⟨?request, ?change, ?entry, ?colour⟩
  case request =>
    intro s q rest st m w x x' neighbours turn role hst hlt hm hm10 hx byte sizes owner admitted surcharge floor hn hnv weight
      midWater parked hw room hx'
    subst hst hm
    obtain rfl : neighbours = (neighboursOf q).2 := hn
    obtain rfl : x' = (setChange q).apply x := by rw [hx', setChange_apply, hw]; rfl
    have hweight : ((setChange q).apply x).weight = w := by rw [setChange_apply, hw]
    have valid := setChange_valid sizes (fun h => (owner h).1) (fun h => (admitted h).1) surcharge floor
      (st := q.field 0 1) (fun h => by
        obtain ⟨count, named, nodup⟩ := hnv h
        simp only [neighboursValid, Bool.and_eq_true, decide_eq_true_eq, List.all_eq_true]
        exact ⟨⟨count, named⟩, nodup⟩) weight midWater
    have rule := setStationRule_ok (s := s.leaving rest) role hlt hm10 valid (setChange_capabilities byte) hx
      (setChange_present (fun h => (owner h).2) (fun h => (admitted h).2)) (fun h => parked (setChange_needsParked.1 h))
      (by rw [hweight]; exact room)
    exact ⟨_, _, onRequest_ok turn rule, rfl, Table.fetch_put_same s.stations _ _,
      fun k hk => Table.fetch_put_other s.stations _ hk, fun same kept => State.capabilitiesChanged_none same kept⟩
  case change =>
    intro s st old new lost waiting hlost hw
    obtain rfl : lost = old.sizes.lostIn new.sizes := hlost
    obtain rfl : waiting = fun y => (y.queue.filter (fun e => e.sub = .waiting)).map (·.handle) := funext hw
    refine ⟨fun same => ⟨fun none => ?_, fun y some hy => ?_⟩, fun ho hn => ?gain, fun c ho hn canonical hc => ?loss⟩
    · rw [State.capabilitiesChanged_same same, if_pos (SizeSet.isEmpty_iff.2 none)]
    · rw [State.capabilitiesChanged_same same, if_neg (by rwa [SizeSet.isEmpty_iff]), State.afterLoss,
        State.adjustWaiting_eq hy]
    case gain =>
      refine ⟨(s.addConsumables st colourToners).consumables, fun col hcol => ?_, fun k hk => ?_, fun none => ?_, fun y some hy => ?_⟩
      · exact (Table.fetch_putAll st colourToners _ _ _).trans (if_pos (mem_colourKeys hcol))
      · exact (Table.fetch_putAll st colourToners _ _ _).trans (if_neg (not_mem_colourKeys hk))
      · rw [State.capabilitiesChanged_gain ho hn, if_pos (SizeSet.isEmpty_iff.2 none)]; rfl
      · rw [State.capabilitiesChanged_gain ho hn, if_neg (by rwa [SizeSet.isEmpty_iff]), State.afterLoss,
          State.adjustWaiting_eq (s := s.gainColour st) hy]
        rfl
    case loss =>
      subst hc
      have perm := State.freeOrder_perm (s.clearFault st .toner colourOnly)
        ((s.clearFault st .toner colourOnly).reorders.filter (fun r => r.station = st && r.colour ≠ .k))
      have cancelled := ((State.clearFault_keeps s st .toner colourOnly).trans (State.cancelReorders_kept _
        (fun r => r.station = st && r.colour ≠ .k)).keeps).canonical canonical
      refine ⟨_, (s.clearFault st .toner colourOnly).cancelReorders (fun r => r.station = st && r.colour ≠ .k),
        (s.loseColour st).consumables, perm, ?_, fun col hcol => ?_, fun k hk => ?_, fun y hy => ?_⟩
      · rw [perm.length_eq]; rfl
      · exact (Table.fetch_removeAll st colourToners cancelled.consumables _).trans (if_pos (mem_colourKeys hcol))
      · exact (Table.fetch_removeAll st colourToners cancelled.consumables _).trans (if_neg (not_mem_colourKeys hk))
      · rw [State.capabilitiesChanged_loss ho hn, State.afterLoss, State.adjustWaiting_eq (s := s.loseColour st) hy]
        rfl
  case entry =>
    intro s b st h colourLost lost j hb hj hh
    subst hb
    refine ⟨fun fits => State.adjustMedia_kept lost hj fits, fun released gone => ?_⟩
    exact (State.adjustMedia_returned hj released gone).trans (State.returnEntry_named hj hh .media)
  case colour =>
    intro s st h sides impressions sheets e j d c hj hh hc hd hsides himpressions hsheets he
    subst hd
    refine ⟨fun mono => State.adjustColour_kept hj hc mono, fun colour flag unwilling => ?_, fun colour flag willing => ?_⟩
    · rw [State.adjustColour_returned hj hc colour flag unwilling, State.returnEntry_named hj hh]
    · obtain rfl : e = (c.recomputed j.descriptor).reservation := by rw [he, hsheets, himpressions, hsides]; rfl
      subst hh
      refine ⟨_, _, _, State.adjustColour_fallsBack hj hc colour flag willing,
        State.updateJob_fetch_named hj _, fun k hk => Table.fetch_update_other s.jobs _ hk,
        fun k => Table.fetch_update_map s.users _ _ k, fun k => Table.fetch_update_map s.tenants _ _ k⟩

end Sys2Proof.Machine
end

section
/-! RETIRE STATION (O37): each step of R82 leaves nothing of the station in its own tables. -/

namespace Sys2Proof.Machine

/-! ### What the callout manager and the planner may change -/

/-- Nothing has changed but the callout manager's records and the notice queue. -/
def State.CalloutsOnly (s t : State) : Prop :=
  t = { s with
    faults := t.faults, callouts := t.callouts, nextCallout := t.nextCallout, pendingFaults := t.pendingFaults
    notices := t.notices, lost := t.lost }

theorem State.CalloutsOnly.trans {s t u : State} (h : s.CalloutsOnly t) (k : t.CalloutsOnly u) : s.CalloutsOnly u := by
  unfold State.CalloutsOnly at h k ⊢
  rw [k, h]

theorem State.openCallout_calloutsOnly (s : State) (st : Nat) (c : FaultClass) : s.CalloutsOnly (s.openCallout st c) := by
  unfold State.CalloutsOnly State.openCallout
  rw [State.notify_eq]
  rfl

theorem State.servePending_calloutsOnly (s : State) : s.CalloutsOnly s.servePending := by
  unfold State.servePending
  split
  · exact rfl
  · rename_i st c rest _
    exact State.CalloutsOnly.trans (t := { s with pendingFaults := rest }) rfl (State.openCallout_calloutsOnly _ _ _)

theorem State.servePendingTimes_calloutsOnly (n : Nat) (s : State) : s.CalloutsOnly (State.servePendingTimes n s) := by
  induction n generalizing s with
  | zero => exact rfl
  | succ n ih => exact (State.servePending_calloutsOnly s).trans (ih _)

/-- Nothing has changed but the reorders, the consumables, the tenants' counts, the choices made and the notice queue. -/
def State.SuppliesOnly (s t : State) : Prop :=
  t = { s with
    reorders := t.reorders, consumables := t.consumables, tenants := t.tenants, choices := t.choices
    notices := t.notices, lost := t.lost }

theorem State.SuppliesOnly.trans {s t u : State} (h : s.SuppliesOnly t) (k : t.SuppliesOnly u) : s.SuppliesOnly u := by
  unfold State.SuppliesOnly at h k ⊢
  rw [k, h]

theorem State.CalloutsOnly.rest {s t : State} (h : s.CalloutsOnly t) :
    t.stations = s.stations ∧ t.links = s.links ∧ t.consumables = s.consumables ∧ t.reorders = s.reorders ∧
      t.jobs = s.jobs ∧ t.users = s.users ∧ t.clock = s.clock := by
  unfold State.CalloutsOnly at h
  rw [h]
  exact ⟨rfl, rfl, rfl, rfl, rfl, rfl, rfl⟩

theorem State.SuppliesOnly.rest {s t : State} (h : s.SuppliesOnly t) :
    t.stations = s.stations ∧ t.links = s.links ∧ t.jobs = s.jobs ∧ t.users = s.users ∧ t.clock = s.clock ∧
      t.callouts = s.callouts ∧ t.pendingFaults = s.pendingFaults := by
  unfold State.SuppliesOnly at h
  rw [h]
  exact ⟨rfl, rfl, rfl, rfl, rfl, rfl, rfl⟩

theorem State.SuppliesOnly.faults {s t : State} (h : s.SuppliesOnly t) : t.faults = s.faults := by
  unfold State.SuppliesOnly at h
  rw [h]

/-! ### Reorders cancelled at a station without a TONER fault -/

theorem State.suppressionEnds_none {s : State} {st : Nat} (h : s.faultAt st .toner = none) (col : Toner) :
    s.suppressionEnds st col = s := by simp [State.suppressionEnds, h]

section
variable {s : State} {r : Reorder}

/-- A cancel whose station has no TONER fault is the planner's alone. -/
theorem State.cancelOne_eq (h : s.faultAt r.station .toner = none) :
    s.cancelOne r = ((if r.state = .deferred then s else s.setSuppliesUsed r.tenant (· - 1)).dropReorder r).notify
      (.reorderCancelled r.number r.station r.colour r.tenant r.state) := by
  have none : ((((if r.state = .deferred then s else s.setSuppliesUsed r.tenant (· - 1)).dropReorder r).notify
      (.reorderCancelled r.number r.station r.colour r.tenant r.state))).faultAt r.station .toner = none := by
    rw [State.faultAt, State.notify_faults]
    split
    · exact h
    · exact h
  exact State.suppressionEnds_none none r.colour

theorem State.cancelOne_suppliesOnly (h : s.faultAt r.station .toner = none) : s.SuppliesOnly (s.cancelOne r) := by
  rw [State.cancelOne_eq h]
  unfold State.SuppliesOnly
  rw [State.notify_eq]
  split
  · rfl
  · rfl

theorem State.cancelOne_reorders (h : s.faultAt r.station .toner = none) :
    (s.cancelOne r).reorders = s.reorders.filter (fun x => x.number ≠ r.number) := by
  rw [State.cancelOne_eq h, State.notify_reorders]
  split
  · rfl
  · rfl

end

/-- Cancelling reorders of a station without a TONER fault leaves no reorder of their numbers. -/
theorem State.cancelAll_spec {st : Nat} {rs : List Reorder} (hs : ∀ r ∈ rs, r.station = st) {s : State}
    (h : s.faultAt st .toner = none) :
    s.SuppliesOnly (rs.foldl State.cancelOne s) ∧
      ∀ x ∈ (rs.foldl State.cancelOne s).reorders, x ∈ s.reorders ∧ x ∉ rs := by
  induction rs generalizing s with
  | nil => exact ⟨rfl, fun x hx => ⟨hx, List.not_mem_nil⟩⟩
  | cons r rs ih =>
    obtain ⟨hr, hs⟩ := List.forall_mem_cons.1 hs
    rw [← hr] at h
    have only := State.cancelOne_suppliesOnly h
    obtain ⟨frame, left⟩ := ih hs (s := s.cancelOne r) (by rw [State.faultAt, only.faults, ← hr]; exact h)
    refine ⟨only.trans frame, fun x hx => ?_⟩
    obtain ⟨hmem, hnot⟩ := left x hx
    rw [State.cancelOne_reorders h, List.mem_filter] at hmem
    obtain ⟨held, other⟩ := hmem
    exact ⟨held, List.not_mem_cons_of_ne_of_not_mem (fun e => by simp [e] at other) hnot⟩

/-! ### Nothing of a station at the callout manager -/

/-- The callout manager keeps nothing of a station. -/
structure State.NoFaultsOf (s : State) (st : Nat) : Prop where
  faults   : ∀ c, s.faultAt st c = none
  callouts : ∀ p ∈ s.callouts, p.2.station ≠ st
  pending  : ∀ p ∈ s.pendingFaults, p.1 ≠ st

theorem State.NoFaultsOf.openCallout {s : State} {st k : Nat} (h : s.NoFaultsOf st) (hk : k ≠ st) (c : FaultClass) :
    (s.openCallout k c).NoFaultsOf st where
  faults d := by
    rw [State.faultAt, State.openCallout, State.notify_faults]
    exact (Table.fetch_update_map _ _ _ _).trans (by rw [show s.faults.fetch (faultKey st d) = none from h.faults d]; rfl)
  callouts p hp := by
    rw [State.openCallout, State.notify_callouts] at hp
    rcases Table.mem_put hp with rfl | hp
    · exact hk
    · exact h.callouts p hp
  pending := by
    rw [State.openCallout, State.notify_pendingFaults]
    exact h.pending

theorem State.NoFaultsOf.servePending {s : State} {st : Nat} (h : s.NoFaultsOf st) : s.servePending.NoFaultsOf st := by
  unfold State.servePending
  split
  · exact h
  · rename_i k c rest hp
    have pending := hp ▸ h.pending
    obtain ⟨hk, hrest⟩ := List.forall_mem_cons.1 pending
    exact State.NoFaultsOf.openCallout (s := { s with pendingFaults := rest }) ⟨h.faults, h.callouts, hrest⟩ hk c

theorem State.NoFaultsOf.servePendingTimes {st : Nat} (n : Nat) {s : State} (h : s.NoFaultsOf st) :
    (State.servePendingTimes n s).NoFaultsOf st := by
  induction n generalizing s with
  | zero => exact h
  | succ n ih => exact ih h.servePending

/-! ### The steps of R82 -/

theorem classCode_lt (c : FaultClass) : classCode c < 8 := by cases c <;> decide

/-- The key of a fault names its station. -/
theorem faultKey_div (st : Nat) (c : FaultClass) : faultKey st c / 8 = st := by
  have := classCode_lt c
  rw [faultKey]; omega

theorem Table.of_mem_keep {α : Type} {p : Nat → α → Bool} {t : Table α} {x : Nat × α} (h : x ∈ t.keep p) :
    p x.1 x.2 = true := by
  rw [Table.keep_eq_filter] at h
  exact (List.mem_filter.1 h).2

/-- A fault stands under its station and class, in a canonical state. -/
theorem State.Canonical.faultAt_station {s : State} (canonical : s.Canonical) {st : Nat} {c : FaultClass} {f : FaultEntry}
    (h : s.faultAt st c = some f) : f.station = st := by
  have key : faultKey st c = faultKey f.station f.cls := canonical.classes _ (Table.mem_of_fetch _ h)
  rw [← faultKey_div f.station f.cls, ← key, faultKey_div]

theorem State.dropFaultsOf_none {s : State} (canonical : s.Canonical) (st : Nat) : (s.dropFaultsOf st).NoFaultsOf st where
  faults c := by
    rw [State.faultAt, State.dropFaultsOf, State.notifyAll_faults]
    refine (Table.fetch_keep canonical.faults _ _).trans ?_
    cases hf : s.faults.fetch (faultKey st c) with
    | none => rfl
    | some f => simp [Option.filter, canonical.faultAt_station hf]
  callouts p hp := by
    rw [State.dropFaultsOf, State.notifyAll_callouts] at hp
    simpa using Table.of_mem_keep hp
  pending p hp := by
    rw [State.dropFaultsOf, State.notifyAll_pendingFaults] at hp
    simpa using (List.mem_filter.1 hp).2

theorem State.dropFaultsOf_calloutsOnly (s : State) (st : Nat) : s.CalloutsOnly (s.dropFaultsOf st) := by
  unfold State.CalloutsOnly State.dropFaultsOf
  rw [State.notifyAll_eq]

theorem State.NoFaultsOf.supplies {s t : State} {st : Nat} (h : s.NoFaultsOf st) (only : s.SuppliesOnly t) :
    t.NoFaultsOf st := by
  obtain ⟨_, _, _, _, _, callouts, pending⟩ := only.rest
  exact ⟨fun c => by rw [State.faultAt, only.faults]; exact h.faults c, callouts ▸ h.callouts, pending ▸ h.pending⟩

/-- Step 2 of R82 leaves no reorder of the station. -/
theorem State.dropSuppliesOf_spec {s : State} {st : Nat} (h : s.NoFaultsOf st) :
    s.SuppliesOnly (s.dropSuppliesOf st) ∧ ∀ r ∈ (s.dropSuppliesOf st).reorders, r.station ≠ st := by
  have perm := State.freeOrder_perm s (s.reorders.filter (fun r => r.station = st))
  have theirs : ∀ r ∈ s.freeOrder (s.reorders.filter (fun r => r.station = st)), r.station = st := fun r hr => by
    simpa using (List.mem_filter.1 (perm.mem_iff.1 hr)).2
  obtain ⟨only, left⟩ := State.cancelAll_spec (s := s.countChoices (s.reorders.filter (fun r => r.station = st)).length)
    theirs (h.faults .toner)
  refine ⟨State.SuppliesOnly.trans (t := s.cancelReorders (fun r => r.station = st))
    (State.SuppliesOnly.trans (t := s.countChoices _) rfl only) rfl, fun r hr he => ?_⟩
  obtain ⟨held, gone⟩ := left r hr
  exact gone (perm.mem_iff.2 (List.mem_filter.2 ⟨held, decide_eq_true he⟩))

theorem State.dropSuppliesOf_consumables {s : State} (canonical : s.Canonical) (st : Nat) (col : Toner) :
    (s.dropSuppliesOf st).consumables.fetch (st * 4 + tonerCode col) = none := by
  have cancelled := (State.cancelReorders_kept s (fun r => r.station = st)).keeps.canonical canonical
  refine (Table.fetch_removeAll st allToners cancelled.consumables _).trans (if_pos ?_)
  cases col <;> simp [consumableKeys, allToners, consumableKey]

theorem State.emptyPlace_eq (s : State) (st : Nat) (old : StationState) :
    ∃ rs ns l, s.emptyPlace st old = { s with
      stations := s.stations.remove st, links := s.links.remove st, risers := rs, notices := ns, lost := l } := by
  unfold State.emptyPlace
  rw [State.notify_eq]
  exact ⟨_, _, _, rfl⟩

/-- A retired station's own tables hold nothing of it, and the others are as they were but for its neighbour numbers. -/
theorem State.retire_spec {s t : State} (canonical : s.Canonical) (st : Nat) (x : Station) (ht : t = s.retire st x) :
    t.stations.fetch st = none ∧ t.links.fetch st = none ∧
      (∀ col : Toner, t.consumables.fetch (st * 4 + tonerCode col) = none) ∧ t.NoFaultsOf st ∧
      (∀ r ∈ t.reorders, r.station ≠ st) ∧
      (∀ k, k ≠ st → t.stations.fetch k =
        (s.stations.fetch k).map (fun y => { y with neighbours := y.neighbours.filter (fun n => n ≠ st) })) ∧
      (∀ k, k ≠ st → t.links.fetch k = s.links.fetch k) ∧
      t.jobs = s.jobs ∧ t.users = s.users ∧ t.clock = s.clock := by
  subst ht
  have dropped := (State.dropFaultsOf_kept s st).keeps.canonical canonical
  have sorted := (State.dropSuppliesOf_kept (s.dropFaultsOf st) st).keeps.canonical dropped
  have noFaults := State.dropFaultsOf_none canonical st
  obtain ⟨suppliesOnly, noReorders⟩ := State.dropSuppliesOf_spec noFaults
  have noConsumables := State.dropSuppliesOf_consumables dropped st
  have noFaults := noFaults.supplies suppliesOnly
  obtain ⟨stations, links, _, _, jobs, users, clock⟩ := (State.dropFaultsOf_calloutsOnly s st).rest
  obtain ⟨stations', links', jobs', users', clock', _, _⟩ := suppliesOnly.rest
  unfold State.retire
  generalize (s.dropFaultsOf st).dropSuppliesOf st = b at *
  obtain ⟨rs, ns, l, emptied⟩ := State.emptyPlace_eq (b.dropNeighbour st) st x.state
  have noFaults : ((b.dropNeighbour st).emptyPlace st x.state).NoFaultsOf st := by
    rw [emptied]; exact ⟨noFaults.faults, noFaults.callouts, noFaults.pending⟩
  have gone := noFaults.servePendingTimes (s.calloutsOf st).length
  obtain ⟨stations'', links'', consumables'', reorders'', jobs'', users'', clock''⟩ :=
    (State.servePendingTimes_calloutsOnly (s.calloutsOf st).length ((b.dropNeighbour st).emptyPlace st x.state)).rest
  rw [emptied] at stations'' links'' consumables'' reorders'' jobs'' users'' clock'' gone ⊢
  rw [stations'', links'', consumables'', reorders'', jobs'', users'', clock'']
  refine ⟨Table.fetch_remove_same (Table.sorted_mapRecords sorted.stations _) _, Table.fetch_remove_same sorted.links _,
    noConsumables, gone, noReorders, fun k hk => ?_, fun k hk => ?_, jobs'.trans jobs, users'.trans users,
    clock'.trans clock⟩
  · refine (Table.fetch_remove_other _ hk).trans ?_
    exact (Table.fetch_mapRecords _ _ _).trans (by rw [stations', stations])
  · refine (Table.fetch_remove_other _ hk).trans ?_
    exact congrArg (Table.fetch · k) (links'.trans links)

theorem retireStationRule_ok {q : Request} {s : State} {st : Nat} {x : Station}
    (named : namedStation .retireStation q s = .ok (st, x)) (h : x.state = .parked ∨ x.state = .probation) :
    retireStationRule q s = .ok { state := s.retire st x } := by
  rcases h with h | h <;> simp [retireStationRule, named, h]

/-- Settles O37: each step clears its tables, and the steps after it leave them clear. -/
theorem retireLeavesNothingOfTheStation : Obligations.RetireLeavesNothingOfTheStation := by
  intro s q rest st x turn role hst hlt canonical hx state
  subst hst
  have named := namedStation_building (k := .retireStation) (s := s.leaving rest) role (by decide) hlt hx
  obtain ⟨station, link, consumables, ⟨faults, callouts, pending⟩, reorders, others⟩ :=
    State.retire_spec ((State.leaving_kept turn.front).keeps.canonical canonical) (q.field 0 1) x rfl
  exact ⟨_, onRequest_ok turn (retireStationRule_ok named state), station, link, consumables, faults, callouts, pending,
    reorders, others⟩

end Sys2Proof.Machine
end

section
/-! SWEEP RISER and LINK RESET (O38). -/

namespace Sys2Proof.Machine

/-! ### SWEEP RISER -/

section
variable {q : Request} {s : State}

theorem sweepRiserRule_busy (role : q.role = 0 ∨ q.role = 1) (hr : q.field 0 1 < 4)
    (sweeping : (s.risers.item (q.field 0 1)).sweep ≠ none) : sweepRiserRule q s = .error .busy := by
  have : (s.risers.item (q.field 0 1)).sweep.isNone = false := by
    rwa [Bool.eq_false_iff, ne_eq, Option.isNone_iff_eq_none]
  have authorised := authorise_building (k := .sweepRiser) [] s role (by decide)
  simp [sweepRiserRule, authorised, hr, this, require]

theorem sweepRiserRule_empty (role : q.role = 0 ∨ q.role = 1) (hr : q.field 0 1 < 4)
    (idle : (s.risers.item (q.field 0 1)).sweep = none) (none : s.emptyPlaces (q.field 0 1) = []) :
    sweepRiserRule q s = .ok { state := s.notify (.sweepDone (q.field 0 1) 0 0 false), body := .sweep 0 } := by
  have authorised := authorise_building (k := .sweepRiser) [] s role (by decide)
  simp [sweepRiserRule, authorised, hr, idle, none]

theorem sweepRiserRule_starts (role : q.role = 0 ∨ q.role = 1) (hr : q.field 0 1 < 4)
    (idle : (s.risers.item (q.field 0 1)).sweep = none) (places : s.emptyPlaces (q.field 0 1) ≠ []) :
    sweepRiserRule q s = .ok {
      state := s.updateRiser (q.field 0 1) (fun x => { x with sweep := some { addresses := s.emptyPlaces (q.field 0 1) } })
      accepted := true
      body := .sweep (s.emptyPlaces (q.field 0 1)).length } := by
  have authorised := authorise_building (k := .sweepRiser) [] s role (by decide)
  simp only [sweepRiserRule, authorised, hr, idle, Option.isNone_none, require_true,
    decide_true, except_bind_ok]

end

/-! ### LINK RESET -/

theorem Table.length_filter_mapRecords {α : Type} (f : Nat → α → α) (p : Nat → Bool) (t : Table α) :
    ((t.mapRecords f).filter (fun x : Nat × α => p x.1)).length = (t.filter (fun x : Nat × α => p x.1)).length := by
  induction t with
  | nil => rfl
  | cons x t ih =>
    obtain ⟨k, v⟩ := x
    simp only [Table.mapRecords, List.filter_cons]
    split
    · rw [List.length_cons, List.length_cons, ih]
    · exact ih

/-- SWEEP DONE of a sweep that runs, aborted (R126 step 1). -/
def State.reportAborted (s : State) (r : Nat) : State :=
  match (s.risers.item r).sweep with
  | some w => s.notify (.sweepDone r w.tried w.found true)
  | none => s

theorem State.reportAborted_leaving (s : State) (rest : List Request) (r : Nat) :
    (s.leaving rest).reportAborted r = (s.reportAborted r).leaving rest := by
  unfold State.reportAborted
  rw [State.leaving_risers]
  split
  · exact State.notify_leaving _ _ _
  · rfl

/-- Aborting a sweep changes one controller and reports. -/
theorem State.abortSweep_eq (s : State) (r : Nat) :
    s.abortSweep r = { s with
      risers := (s.abortSweep r).risers, notices := (s.reportAborted r).notices, lost := (s.reportAborted r).lost } := by
  cases hw : (s.risers.item r).sweep with
  | none => simp only [State.abortSweep, State.reportAborted, hw]
  | some w =>
    obtain ⟨notices, lost⟩ := State.notify_congr (a := s.updateRiser r (fun x => { x with sweep := none })) (s := s)
      (.sweepDone r w.tried w.found true) rfl rfl rfl rfl
    simp only [State.abortSweep, State.reportAborted, hw]
    rw [State.notify_eq, notices, lost]
    rfl

theorem State.abortSweep_item (s : State) {r : Nat} (hr : r < 4) :
    (s.abortSweep r).risers.item r = { s.risers.item r with sweep := none } ∧
      ∀ k, k < 4 → k ≠ r → (s.abortSweep r).risers.item k = s.risers.item k := by
  unfold State.abortSweep
  split
  · rw [State.notify_risers]
    exact ⟨Quad.item_write _ hr _, fun k hk other => Quad.item_write_other _ hr hk other _⟩
  · rename_i hw
    refine ⟨?_, fun _ _ _ => rfl⟩
    rw [← hw]

/-- A link reset changes the controllers, the riser's link records and the notice queue. -/
theorem State.resetRiser_eq (s : State) (r burst : Nat) :
    s.resetRiser r burst = { s with
      risers := (s.resetRiser r burst).risers
      links := s.links.mapRecords (fun st l => if onRiser r st then l.afterReset else l)
      notices := (s.reportAborted r).notices, lost := (s.reportAborted r).lost } := by
  conv => lhs; rw [State.resetRiser, State.abortSweep_eq]
  rw [State.resetRiser]
  rfl

theorem linkResetRule_ok {q : Request} {s : State} (role : q.role = 0 ∨ q.role = 1) (hr : q.field 0 1 < 4)
    (hb : q.field 1 1 ≤ 4) :
    linkResetRule q s = .ok {
      state := s.resetRiser (q.field 0 1) (q.field 1 1)
      body := .linkReset ((s.resetRiser (q.field 0 1) (q.field 1 1)).risers.item (q.field 0 1)).burst
        (s.links.filter (fun p => p.1 / 24 = q.field 0 1)).length } := by
  have authorised := authorise_building (k := .linkReset) [] s role (by decide)
  have count : (s.resetRiser (q.field 0 1) (q.field 1 1)).links.count (fun st _ => onRiser (q.field 0 1) st) =
      (s.links.filter (fun p => p.1 / 24 = q.field 0 1)).length := by
    rw [Table.count_eq, State.resetRiser_eq]
    exact Table.length_filter_mapRecords _ _ _
  simp [linkResetRule, authorised, hr, hb, count]

/-- Settles O38: the sweep by its list, and the reset step by step. -/
theorem sweepAndLinkResetActOnOneRiser : Obligations.SweepAndLinkResetActOnOneRiser := by
  refine ⟨?sweep, ?reset⟩
  case sweep =>
    intro s q rest r places turn role hr hlt hp
    subst hr
    obtain rfl : places = s.emptyPlaces (q.field 0 1) := hp
    refine ⟨fun sweeping => onRequest_refused turn (sweepRiserRule_busy (s := s.leaving rest) role hlt sweeping),
      fun idle none => onRequest_ok turn (sweepRiserRule_empty (s := s.leaving rest) role hlt idle none),
      fun idle some => ⟨_, onRequest_accepted turn (sweepRiserRule_starts (s := s.leaving rest) role hlt idle some),
        Quad.item_write _ hlt _, fun k hk other => Quad.item_write_other _ hlt hk other _⟩⟩
  case reset =>
    intro s b q rest r burst turn role hr hlt hburst hle hb
    subst hr hburst
    have rule := linkResetRule_ok (s := s.leaving rest) role hlt hle
    obtain rfl : b = s.reportAborted (q.field 0 1) := hb
    have mended := State.resetRiser_eq (s.leaving rest) (q.field 0 1) (q.field 1 1)
    rw [State.reportAborted_leaving] at mended
    obtain ⟨mine, others⟩ := State.abortSweep_item (s.leaving rest) hlt
    refine ⟨((s.leaving rest).resetRiser (q.field 0 1) (q.field 1 1)).risers,
      s.links.mapRecords (fun st l => if onRiser (q.field 0 1) st then l.afterReset else l),
      (onRequest_ok turn rule).trans (congrArg (fun t => Host.Outcome.next (State.reply t q _)) mended), ?_, fun k hk other => ?_, fun st => ?_⟩
    · refine (Quad.item_write _ hlt _).trans ?_
      show Riser.afterReset (((s.leaving rest).abortSweep (q.field 0 1)).risers.item (q.field 0 1)) _ = _
      rw [mine]
      rfl
    · refine (Quad.item_write_other _ hlt hk other _).trans ?_
      exact others k hk other
    · rw [Table.fetch_mapRecords]
      simp [onRiser, Link.afterReset]

end Sys2Proof.Machine
end

section
/-! The reads of the directory, the planner, the callout manager and the counters (O39). -/

namespace Sys2Proof.Machine

section
variable {q : Request} {s : State}

theorem getStationRule_ok {x : Station} (ha : authorise .getStation q [s.bindStation (q.field 0 1)] s = .ok ())
    (hst : q.field 0 1 < 96) (hx : s.stations.fetch (q.field 0 1) = some x) :
    getStationRule q s = .ok { state := s, body := s.stationBody (q.field 0 1) x } := by
  simp [getStationRule, namedStation, ha, require_of (decide_eq_true (p := _ < Config.stationCount) hst), hx, demand]

theorem consumableKey_tonerOf {st col : Nat} (h : col < 4) : consumableKey st (tonerOf col) = st * 4 + col := by
  match col, h with
  | 0, _ | 1, _ | 2, _ | 3, _ => rfl

theorem getConsumableRule_ok {x : Station} {r : Consumable}
    (ha : authorise .getConsumable q [s.bindStation (q.field 0 1)] s = .ok ()) (hst : q.field 0 1 < 96)
    (hcol : q.field 1 1 < 4) (hx : s.stations.fetch (q.field 0 1) = some x)
    (hr : s.consumables.fetch (q.field 0 1 * 4 + q.field 1 1) = some r) :
    getConsumableRule q s = .ok {
      state := s
      body := .consumable r x.owner (s.tenantOf x.owner).leadCover (s.tenantOf x.owner).floorPercent
        (r.reorder.bind s.reorderAt) } := by
  simp [getConsumableRule, ha, hst, hcol, hx, consumableKey_tonerOf hcol, hr, demand, Config.stationCount]

/-! ### LIST REORDERS -/

theorem listReordersRule_ok
    (ha : authorise .listReorders q (if q.field 0 1 = 255 then [] else [s.bindStation (q.field 0 1)]) s = .ok ())
    (hst : q.field 0 1 < 96 ∨ q.field 0 1 = 255) :
    listReordersRule q s = .ok {
      state := s
      body := .reorders (s.reorders.filter (fun r => listedFor (q.field 0 1) r && (q.role < 2 ||
        s.ownedBy q.tenant r.station))) s.reorders.length s.nextReorder } := by
  have range : (decide (q.field 0 1 < Config.stationCount) || decide (q.field 0 1 = 255)) = true := by
    rw [Bool.or_eq_true, decide_eq_true_eq, decide_eq_true_eq]; exact hst
  simp [listReordersRule, ha, require_of range]

theorem State.ownedBy_eq (s : State) (t st : Nat) :
    s.ownedBy t st = decide ((s.stations.fetch st).map (·.owner) = some t) := by
  unfold State.ownedBy
  cases s.stations.fetch st <;> simp

/-- A kind that role 2 may issue is authorised for a present tenant, when what the request names allows it. -/
theorem authorise_tenant {k : Kind} {bound : List Binding} (role : q.role = 2) (h : k.permission 2 ≠ .no)
    (present : s.tenants.has q.tenant = true) (allowed : bound.all (fun b => b.allows q.tenant) = true) :
    authorise k q bound s = .ok () := by
  simp [authorise, role, h, present, allowed]

theorem State.bindStation_eq {st : Nat} {x : Station} (hst : st < 96) (hx : s.stations.fetch st = some x) :
    s.bindStation st = .tenant x.owner := by
  simp [State.bindStation, hx, Config.stationCount, Nat.not_le.2 hst]

/-! ### LIST CALLOUTS -/

theorem listCalloutsRule_ok (role : q.role = 0 ∨ q.role = 1) (hst : q.field 0 1 < 96 ∨ q.field 0 1 = 255) :
    listCalloutsRule q s = .ok {
      state := s
      body := .callouts (s.listedCallouts (q.field 0 1)) s.callouts.length s.nextCallout s.listedPending
        (if q.field 0 1 = 255 then none else some (s.activeFaults (q.field 0 1))) } := by
  have authorised := authorise_building (k := .listCallouts) [] s role (by decide)
  have range : (decide (q.field 0 1 < Config.stationCount) || decide (q.field 0 1 = 255)) = true := by
    rw [Bool.or_eq_true, decide_eq_true_eq, decide_eq_true_eq]; exact hst
  simp [listCalloutsRule, authorised, require_of range]

theorem State.listedColours_none {x : Callout} (h : x.state = .resolved ∨ x.cls ≠ .toner) : s.listedColours x = none := by
  unfold State.listedColours
  split
  · rfl
  · rename_i unresolved
    have cls := h.resolve_left unresolved
    unfold State.calloutColours
    split
    · rename_i toner; exact absurd toner cls
    · rfl

theorem State.listedColours_toner {x : Callout} (h : x.state ≠ .resolved) (cls : x.cls = .toner) :
    s.listedColours x = (s.faults.fetch (x.station * 8 + 4)).map (·.colours) := by
  simp [State.listedColours, h, State.calloutColours, cls, State.faultAt, faultKey, classCode]

theorem readIntervalRule_ok (role : q.role = 0 ∨ q.role = 1) :
    readIntervalRule q s = .ok { state := s, body := .intervals s.counters } := by
  have authorised := authorise_building (k := .readInterval) [] s role (by decide)
  simp [readIntervalRule, authorised]

end

/-- Settles O39: what each read answers, with the state it read. -/
theorem directoryReadsChangeNothing : Obligations.DirectoryReadsChangeNothing := by
  refine ⟨?station, ?consumable, ?reorders, ?callouts, fun s q rest turn role =>
    onRequest_ok turn (readIntervalRule_ok (s := s.leaving rest) role)⟩
  case station =>
    intro s q rest st x l turn hst ha hlt hx hl
    subst hst
    have silent : s.isSilent (q.field 0 1) = l.silent := by simp [State.isSilent, hl]
    rw [← silent]
    exact onRequest_ok turn (getStationRule_ok (s := s.leaving rest) ha hlt hx)
  case consumable =>
    intro s q rest st col x t r turn hst hcol ha hlt hlt4 hx ht hr
    subst hst hcol
    have tenant : (s.leaving rest).tenantOf x.owner = t := by simp [State.tenantOf, ht]
    have rule := getConsumableRule_ok (s := s.leaving rest) ha hlt hlt4 hx hr
    rw [tenant] at rule
    exact onRequest_ok turn rule
  case reorders =>
    intro s q rest st turn hst hlt
    subst hst
    refine ⟨fun role => ?_, fun x role present hlt hx owner => ?_, fun role present all => ?_⟩
    · have rule := listReordersRule_ok (s := s.leaving rest) (authorise_building (k := .listReorders) _ _ role (by decide)) hlt
      have listed : (decide (q.role < 2)) = true := decide_eq_true (by omega)
      simp only [listed, Bool.true_or, Bool.and_true] at rule
      exact onRequest_ok turn rule
    · have rule := listReordersRule_ok (s := s.leaving rest) (by
        rw [if_neg (by omega)]
        exact authorise_tenant role (by decide) present (by
          rw [State.bindStation_eq (s := s.leaving rest) hlt hx]; simp [Binding.allows, owner])) (.inl hlt)
      have theirs : (s.leaving rest).reorders.filter (fun r => listedFor (q.field 0 1) r &&
          (decide (q.role < 2) || (s.leaving rest).ownedBy q.tenant r.station)) =
          s.reorders.filter (fun r => r.station = q.field 0 1) := by
        refine List.filter_congr fun r _ => ?_
        have distinct : q.field 0 1 ≠ 255 := by omega
        rw [State.ownedBy_eq, listedFor, role]
        by_cases h : r.station = q.field 0 1
        · simp [h, hx, owner]
        · simp [h, distinct]
      rw [theirs] at rule
      exact onRequest_ok turn rule
    · have rule := listReordersRule_ok (s := s.leaving rest) (by
        rw [if_pos all]; exact authorise_tenant role (by decide) present rfl) (.inr all)
      have theirs : (s.leaving rest).reorders.filter (fun r => listedFor (q.field 0 1) r &&
          (decide (q.role < 2) || (s.leaving rest).ownedBy q.tenant r.station)) =
          s.reorders.filter (fun r => (s.stations.fetch r.station).map (·.owner) = some q.tenant) := by
        refine List.filter_congr fun r _ => ?_
        rw [State.ownedBy_eq, listedFor, role, all]
        simp
      rw [theirs] at rule
      exact onRequest_ok turn rule
  case callouts =>
    intro s q rest st turn role hst hlt
    subst hst
    refine ⟨_, _, onRequest_ok turn (listCalloutsRule_ok (s := s.leaving rest) role hlt), ?_, ?_, ?_, ?_, ?_⟩
    · rw [State.listedCallouts, List.map_map]; exact List.map_id _
    · intro x hx h
      obtain ⟨p, _, rfl⟩ := List.mem_map.1 hx
      exact State.listedColours_none h
    · intro x hx unresolved toner
      obtain ⟨p, _, rfl⟩ := List.mem_map.1 hx
      exact State.listedColours_toner unresolved toner
    · rw [State.listedPending, List.map_map]; exact List.map_id _
    · intro x hx f m hf hm
      obtain ⟨p, _, rfl⟩ := List.mem_map.1 hx
      have fault : (s.leaving rest).faultAt p.1 p.2 = some f := hf
      simp [State.fellDueOf, fault, hm]

end Sys2Proof.Machine
end

section
/-! The reorder requests (O40). -/

namespace Sys2Proof.Machine

/-! ### What the callout manager may change -/

theorem State.notify_calloutsOnly (s : State) (b : NoticeBody) : s.CalloutsOnly (s.notify b) := by
  unfold State.CalloutsOnly
  rw [State.notify_eq]

theorem State.fallDue_calloutsOnly (s : State) (st : Nat) (c : FaultClass) : s.CalloutsOnly (s.fallDue st c) := by
  unfold State.fallDue
  split
  · rename_i n x _
    unfold State.recurCallout
    exact State.CalloutsOnly.trans (t := State.setLink { s with
        callouts := s.callouts.put n (x.recurs (s.minuteAfter (s.policy.timeout x.tier))) } x.station x.cls (.called n))
      (by exact rfl) (State.notify_calloutsOnly _ _)
  · split
    · exact State.openCallout_calloutsOnly _ _ _
    · exact rfl

theorem State.suppressionEnds_calloutsOnly (s : State) (st : Nat) (col : Toner) :
    s.CalloutsOnly (s.suppressionEnds st col) := by
  unfold State.suppressionEnds
  split
  · split
    · split
      · exact State.fallDue_calloutsOnly _ _ _
      · exact rfl
    · exact rfl
  · exact rfl

theorem State.CalloutsOnly.tenants {s t : State} (h : s.CalloutsOnly t) : t.tenants = s.tenants := by
  unfold State.CalloutsOnly at h
  rw [h]

/-! ### The reorder a request names -/

section
variable {k : Kind} {q : Request} {s : State} {r : Reorder} {t : Tenant}

theorem State.reorderAt_number {n : Nat} (h : s.reorderAt n = some r) : r.number = n := by
  simpa using List.find?_some h

theorem namedReorder_ok {valid : Bool} (ha : authorise k q [s.bindReorder (q.field 0 2)] s = .ok ())
    (hn : q.field 0 2 ≠ 0) (hv : valid = true) (hr : s.reorderAt (q.field 0 2) = some r) :
    namedReorder k q valid s = .ok r := by
  simp [namedReorder, ha, hn, hv, hr, demand]

theorem Tenant.hasSupplies_iff : t.hasSupplies = true ↔ t.suppliesMode = .unlimited ∨ t.suppliesUsed < t.suppliesAllowance := by
  simp [Tenant.hasSupplies]

theorem State.tenantOf_eq {n : Nat} (h : s.tenants.fetch n = some t) : s.tenantOf n = t := by simp [State.tenantOf, h]

/-! ### APPROVE REORDER -/

/-- An approval of a reorder counts it and queues its notice with the new counts (R138). -/
theorem State.approve_eq (ht : s.tenants.fetch r.tenant = some t) :
    s.approve r = ({ s with
        tenants := s.tenants.update r.tenant (fun x => { x with suppliesUsed := countOne x.suppliesUsed })
        reorders := s.reorders.map (fun o => if o.number = r.number then { o with state := .proposed } else o) } : State).notify
      (.reorderProposed r.number r.station r.colour r.tenant r.cause r.level r.cover (countOne t.suppliesUsed)
        t.suppliesAllowance true false) := by
  have counted : (((s.updateReorder r.number (fun x => { x with state := .proposed })).setSuppliesUsed r.tenant
      countOne).tenantOf r.tenant) = { t with suppliesUsed := countOne t.suppliesUsed } :=
    State.tenantOf_eq ((Table.fetch_update_same s.tenants _ _).trans (by rw [ht]; rfl))
  simp only [State.approve, State.proposedNotice, counted]
  rfl

theorem State.approvedBody_eq (ht : s.tenants.fetch r.tenant = some t) :
    (s.approve r).approvedBody r = .approved { r with state := .proposed } (countOne t.suppliesUsed) t.suppliesAllowance := by
  have counted : (s.approve r).tenantOf r.tenant = { t with suppliesUsed := countOne t.suppliesUsed } := by
    refine State.tenantOf_eq ?_
    rw [State.approve_eq ht, State.notify_tenants]
    exact (Table.fetch_update_same s.tenants _ _).trans (by rw [ht]; rfl)
  rw [State.approvedBody, counted]

theorem approveReorderRule_state (named : namedReorder .approveReorder q true s = .ok r) (h : r.state ≠ .deferred) :
    approveReorderRule q s = .error .wrongState := by simp [approveReorderRule, named, h, require]

theorem approveReorderRule_limit (named : namedReorder .approveReorder q true s = .ok r) (h : r.state = .deferred)
    (ht : s.tenants.fetch r.tenant = some t) (spent : t.hasSupplies = false) (barred : q.role ≠ 0 ∨ 1000 ≤ t.suppliesAllowance) :
    approveReorderRule q s = .error .limit := by
  have denied : ¬ (q.role = 0 ∧ t.suppliesAllowance < 1000) := by omega
  simp [approveReorderRule, named, h, State.tenantOf_eq ht, spent, denied, require]

theorem approveReorderRule_room (named : namedReorder .approveReorder q true s = .ok r) (h : r.state = .deferred)
    (ht : s.tenants.fetch r.tenant = some t) (room : t.hasSupplies = true) :
    approveReorderRule q s = .ok { state := s.approve r, body := (s.approve r).approvedBody r } := by
  simp [approveReorderRule, named, h, State.tenantOf_eq ht, room]

theorem approveReorderRule_raised (named : namedReorder .approveReorder q true s = .ok r) (h : r.state = .deferred)
    (ht : s.tenants.fetch r.tenant = some t) (spent : t.hasSupplies = false) (role : q.role = 0)
    (below : t.suppliesAllowance < 1000) :
    approveReorderRule q s = .ok {
      state := (s.raiseAllowance r.tenant).approve r
      body := ((s.raiseAllowance r.tenant).approve r).approvedBody r } := by
  simp [approveReorderRule, named, h, State.tenantOf_eq ht, spent, role, below]

/-! ### PLACE REORDER and CANCEL REORDER -/

theorem placeReorderRule_state (named : namedReorder .placeReorder q (inRange 1 43200 (q.field 2 2)) s = .ok r)
    (h : r.state ≠ .proposed) : placeReorderRule q s = .error .wrongState := by
  simp [placeReorderRule, named, h, require]

theorem placeReorderRule_ok (named : namedReorder .placeReorder q (inRange 1 43200 (q.field 2 2)) s = .ok r)
    (h : r.state = .proposed) :
    placeReorderRule q s = .ok {
      state := s.updateReorder r.number (fun x => { x with state := .placed, due := some (s.minuteAfter (q.field 2 2)) })
      body := .placed (s.minuteAfter (q.field 2 2)) } := by
  simp [placeReorderRule, named, h]

theorem cancelReorderRule_ok (named : namedReorder .cancelReorder q true s = .ok r) :
    cancelReorderRule q s = .ok {
      state := s.cancelOne r, body := .cancelled ((s.cancelOne r).tenantOf r.tenant).suppliesUsed } := by
  simp [cancelReorderRule, named]

/-- The tenants after a cancel: a reorder that was counted is given back. -/
def State.creditOf (s : State) (r : Reorder) : Table Tenant :=
  if r.state = .deferred then s.tenants
  else s.tenants.update r.tenant (fun x => { x with suppliesUsed := x.suppliesUsed - 1 })

theorem State.creditOf_fetch (ht : s.tenants.fetch r.tenant = some t) :
    (s.creditOf r).fetch r.tenant =
      some { t with suppliesUsed := if r.state = .deferred then t.suppliesUsed else t.suppliesUsed - 1 } := by
  unfold State.creditOf
  split
  · exact ht
  · rw [Table.fetch_update_same, ht]; rfl

theorem State.creditOf_other {n : Nat} (hn : n ≠ r.tenant) : (s.creditOf r).fetch n = s.tenants.fetch n := by
  unfold State.creditOf
  split
  · rfl
  · exact Table.fetch_update_other _ _ hn

/-- A cancel, its planner's part spelt out (R141). -/
theorem State.cancelOne_spelt (s : State) (r : Reorder) :
    s.cancelOne r = (({ s with
        tenants := s.creditOf r
        consumables := s.consumables.update (consumableKey r.station r.colour) (fun c => { c with reorder := none })
        reorders := s.reorders.filter (fun o => o.number ≠ r.number) } : State).notify
      (.reorderCancelled r.number r.station r.colour r.tenant r.state)).suppressionEnds r.station r.colour := by
  simp only [State.cancelOne, State.creditOf]
  split
  · rfl
  · rfl

theorem State.cancelOne_used (ht : s.tenants.fetch r.tenant = some t) :
    ((s.cancelOne r).tenantOf r.tenant).suppliesUsed =
      if r.state = .deferred then t.suppliesUsed else t.suppliesUsed - 1 := by
  have tenants : (s.cancelOne r).tenants = s.creditOf r := by
    rw [State.cancelOne_spelt, (State.suppressionEnds_calloutsOnly _ _ _).tenants, State.notify_tenants]
  rw [State.tenantOf, tenants, State.creditOf_fetch ht]
  rfl

end

/-- Settles O40: the three rules by the reorder's state and its tenant's allowance. -/
theorem reordersAreApprovedPlacedAndCancelled : Obligations.ReordersAreApprovedPlacedAndCancelled := by
  refine ⟨?approve, ?place, ?cancel⟩
  case approve =>
    intro s q rest n r t turn hn h0 ha hr ht
    obtain rfl : r.number = n := State.reorderAt_number (s := s) hr
    have named := namedReorder_ok (k := .approveReorder) (s := s.leaving rest) (hn ▸ ha) (hn ▸ h0) rfl (hn ▸ hr)
    refine ⟨fun state => onRequest_refused turn (approveReorderRule_state named state), fun state limited spent barred => ?limit,
      fun allowance used state may hused => ?_⟩
    case limit =>
      have spent : t.hasSupplies = false := by
        rw [Bool.eq_false_iff, ne_eq, Tenant.hasSupplies_iff, limited]; simp [spent]
      exact onRequest_refused turn (approveReorderRule_limit (s := s.leaving rest) named state ht spent barred)
    subst hused
    rcases may with ⟨room, rfl⟩ | ⟨limited, spent, role, below, rfl⟩
    · have rule := approveReorderRule_room (s := s.leaving rest) named state ht (Tenant.hasSupplies_iff.2 room)
      rw [State.approvedBody_eq (s := s.leaving rest) ht, State.approve_eq (s := s.leaving rest) ht] at rule
      exact ⟨_, onRequest_ok turn rule, (Table.fetch_update_same s.tenants _ _).trans (by rw [ht]; rfl),
        fun k hk => Table.fetch_update_other s.tenants _ hk⟩
    · have spent : t.hasSupplies = false := by
        rw [Bool.eq_false_iff, ne_eq, Tenant.hasSupplies_iff, limited]; simp [spent]
      have rule := approveReorderRule_raised (s := s.leaving rest) named state ht spent role below
      have raised : ((s.leaving rest).raiseAllowance r.tenant).tenants.fetch r.tenant =
          some { t with suppliesAllowance := t.suppliesAllowance + 1 } :=
        (Table.fetch_update_same s.tenants _ _).trans (by rw [ht]; rfl)
      rw [State.approvedBody_eq raised, State.approve_eq raised] at rule
      exact ⟨_, onRequest_ok turn rule, (Table.fetch_update_same _ _ _).trans (by rw [raised]; rfl),
        fun k hk => (Table.fetch_update_other _ _ hk).trans (Table.fetch_update_other s.tenants _ hk)⟩
  case place =>
    intro s q rest n minutes r turn hn h0 hm h1 h2 ha hr
    obtain rfl : r.number = n := State.reorderAt_number (s := s) hr
    subst hm
    have named := namedReorder_ok (k := .placeReorder) (s := s.leaving rest) (hn ▸ ha) (hn ▸ h0)
      (show inRange 1 43200 (q.field 2 2) = true by simp [inRange, h1, h2]) (hn ▸ hr)
    exact ⟨fun state => onRequest_refused turn (placeReorderRule_state named state),
      fun state => onRequest_ok turn (placeReorderRule_ok named state)⟩
  case cancel =>
    intro s q rest n used r t turn hn h0 ha hr ht hused
    obtain rfl : r.number = n := State.reorderAt_number (s := s) hr
    subst hused
    have rule := cancelReorderRule_ok (namedReorder_ok (k := .cancelReorder) (s := s.leaving rest) (hn ▸ ha) (hn ▸ h0) rfl
      (hn ▸ hr))
    rw [State.cancelOne_used (s := s.leaving rest) ht] at rule
    have spelt := State.cancelOne_spelt (s.leaving rest) r
    rw [spelt] at rule
    exact ⟨_, _, onRequest_ok turn rule, State.creditOf_fetch (s := s.leaving rest) ht,
      fun k hk => State.creditOf_other (s := s.leaving rest) hk, Table.fetch_update_same s.consumables _ _,
      fun k hk => Table.fetch_update_other s.consumables _ hk, spelt⟩

end Sys2Proof.Machine
end

section
/-! ACK CALLOUT and CLOSE CALLOUT (O41). -/

namespace Sys2Proof.Machine

/-! ### The table of callouts -/

theorem Table.length_put_absent {α : Type} {t : Table α} {n : Nat} (h : t.fetch n = none) (a : α) :
    (t.put n a).length = t.length + 1 := by
  induction t with
  | nil => rfl
  | cons p t ih =>
    obtain ⟨k, v⟩ := p
    simp only [Table.fetch] at h
    split at h
    · cases h
    · simp only [Table.put]
      rename_i hne
      split
      · rfl
      · rw [List.length_cons, ih h]; rfl

theorem freeNumber_free {used : List Nat} {n : Nat} (h : n ∉ used) (k : Nat) : freeNumber used k n = n := by
  cases k with
  | zero => rfl
  | succ k => simp [freeNumber, h]

/-- The record of a callout that opens now (R156). -/
def State.newCallout (s : State) (st : Nat) (c : FaultClass) : Callout :=
  { station := st, cls := c, tier := 1, state := .opened, opened := s.clock
    deadline := some (s.minuteAfter s.policy.t1), recurrence := 0 }

/-- A callout that opens, but for its notice (R156, R157). -/
theorem State.openCallout_eq (s : State) (st : Nat) (c : FaultClass) :
    s.openCallout st c = { s with
      callouts := s.callouts.put s.newCalloutNumber (s.newCallout st c)
      nextCallout := nextNumber s.newCalloutNumber
      faults := s.faults.update (faultKey st c) (fun f => { f with link := .called s.newCalloutNumber })
      notices := (s.openCallout st c).notices, lost := (s.openCallout st c).lost } := by
  unfold State.openCallout
  rw [State.notify_eq]
  rfl

section
variable {k : Kind} {q : Request} {s : State} {n : Nat} {x : Callout}

theorem namedCallout_building (role : q.role = 0 ∨ q.role = 1) (hk : k.permission 1 ≠ .no) (h0 : q.field 0 2 ≠ 0)
    (hx : s.callouts.fetch (q.field 0 2) = some x) : namedCallout k q s = .ok (q.field 0 2, x) := by
  simp [namedCallout, authorise_building [] s role hk, h0, hx, demand]

theorem ackCalloutRule_resolved (named : namedCallout .ackCallout q s = .ok (n, x)) (h : x.state = .resolved) :
    ackCalloutRule q s = .error .wrongState := by simp [ackCalloutRule, named, h]

theorem ackCalloutRule_again (named : namedCallout .ackCallout q s = .ok (n, x)) (h : x.state = .acknowledged) :
    ackCalloutRule q s = .ok { state := s, body := .acknowledged n .acknowledged x.tier } := by
  simp [ackCalloutRule, named, h]

theorem ackCalloutRule_ok (named : namedCallout .ackCallout q s = .ok (n, x)) (h : x.state = .opened ∨ x.state = .stalled) :
    ackCalloutRule q s = .ok {
      state := { s with callouts := s.callouts.put n x.acknowledged }, body := .acknowledged n .acknowledged x.tier } := by
  rcases h with h | h <;> simp [ackCalloutRule, named, h]

theorem closeCalloutRule_state (named : namedCallout .closeCallout q s = .ok (n, x)) (h : x.state ≠ .resolved) :
    closeCalloutRule q s = .error .wrongState := by simp [closeCalloutRule, named, h, require]

theorem closeCalloutRule_ok (named : namedCallout .closeCallout q s = .ok (n, x)) (h : x.state = .resolved) :
    closeCalloutRule q s = .ok {
      state := s.closeCallout n x, body := .closed (s.closeCallout n x).callouts.length (s.servedNumber n) } := by
  simp [closeCalloutRule, named, h]

/-- With nothing pending a closed callout's place stays free (R162). -/
theorem State.closeCallout_none (h : s.pendingFaults = []) :
    s.closeCallout n x = ({ s with callouts := s.callouts.remove n } : State).notify (closedNotice .request (n, x)) := by
  have pending : (({ s with callouts := s.callouts.remove n } : State).notify (closedNotice .request (n, x))).pendingFaults = [] := by
    rw [State.notify_pendingFaults]; exact h
  rw [State.closeCallout, State.servePending, pending]

/-- The oldest pending fault takes a closed callout's place, under the next number where that is free (R162). -/
theorem State.closeCallout_serves {st : Nat} {c : FaultClass} {more : List (Nat × FaultClass)}
    (h : s.pendingFaults = (st, c) :: more) (free : s.nextCallout ∉ (s.callouts.remove n).numbers) :
    s.closeCallout n x = { s with
      callouts := (s.callouts.remove n).put s.nextCallout (s.newCallout st c)
      nextCallout := nextNumber s.nextCallout
      faults := s.faults.update (faultKey st c) (fun f => { f with link := .called s.nextCallout })
      pendingFaults := more
      notices := (s.closeCallout n x).notices, lost := (s.closeCallout n x).lost } := by
  have pending : (({ s with callouts := s.callouts.remove n } : State).notify (closedNotice .request (n, x))).pendingFaults =
      (st, c) :: more := by rw [State.notify_pendingFaults]; exact h
  rw [State.closeCallout, State.servePending, pending, State.notify_eq]
  dsimp only []
  have number (ns : List Notice) (l : Bool) : ({ s with
      callouts := s.callouts.remove n, notices := ns, lost := l, pendingFaults := more } : State).newCalloutNumber =
      s.nextCallout := freeNumber_free free _
  rw [State.openCallout_eq, number]
  rfl

end

/-- Settles O41: the acknowledgement and the close by the callout's state, and the pending list that a close serves. -/
theorem calloutsAreAcknowledgedAndClosed : Obligations.CalloutsAreAcknowledgedAndClosed := by
  refine ⟨?ack, ?close⟩
  case ack =>
    intro s q rest n x turn role hn h0 hx
    subst hn
    have named := namedCallout_building (k := .ackCallout) (s := s.leaving rest) role (by decide) h0 hx
    exact ⟨fun h => onRequest_refused turn (ackCalloutRule_resolved named h),
      fun h => onRequest_ok turn (ackCalloutRule_again named h),
      fun h => ⟨_, onRequest_ok turn (ackCalloutRule_ok named h), Table.fetch_put_same s.callouts _ _,
        fun k hk => Table.fetch_put_other s.callouts _ hk⟩⟩
  case close =>
    intro s q rest n x turn role hn h0 sorted hx
    subst hn
    have named := namedCallout_building (k := .closeCallout) (s := s.leaving rest) role (by decide) h0 hx
    have length : (s.callouts.remove (q.field 0 2)).length + 1 = s.callouts.length :=
      Table.length_remove _ (Option.isSome_iff_exists.2 ⟨x, hx⟩)
    refine ⟨fun h => onRequest_refused turn (closeCalloutRule_state named h), fun h none => ?none,
      fun st c more h pending free => ?serves⟩
    case none =>
      have rule := closeCalloutRule_ok named h
      have served : (s.leaving rest).servedNumber (q.field 0 2) = .none := by simp [State.servedNumber, none]
      rw [State.closeCallout_none (s := s.leaving rest) none, State.notify_callouts, served] at rule
      refine ⟨s.callouts.remove (q.field 0 2), ?_, Table.fetch_remove_same sorted _,
        fun k hk => Table.fetch_remove_other _ hk⟩
      rw [← length, Nat.add_sub_cancel]
      exact onRequest_ok turn rule
    case serves =>
      have rule := closeCalloutRule_ok named h
      have absent : s.callouts.fetch s.nextCallout = .none := by
        rw [Table.fetch_eq_none_iff, ← Table.has_iff, free]; decide
      have other : s.nextCallout ≠ q.field 0 2 := fun e => by rw [e, hx] at absent; cases absent
      have removed : (s.callouts.remove (q.field 0 2)).fetch s.nextCallout = .none :=
        (Table.fetch_remove_other _ other).trans absent
      have number : s.nextCallout ∉ (s.callouts.remove (q.field 0 2)).numbers := (Table.fetch_eq_none_iff _ _).1 removed
      have closed := State.closeCallout_serves (s := s.leaving rest) (x := x) pending number
      have served : (s.leaving rest).servedNumber (q.field 0 2) = some s.nextCallout := by
        simp only [State.servedNumber, State.leaving_pendingFaults, pending, List.isEmpty_cons, Bool.false_eq_true, if_false]
        exact congrArg some (freeNumber_free number _)
      have count : ((s.leaving rest).closeCallout (q.field 0 2) x).callouts.length = s.callouts.length := by
        rw [closed]
        exact (Table.length_put_absent removed _).trans length
      rw [served, count] at rule
      refine ⟨_, (s.callouts.remove (q.field 0 2)).put s.nextCallout (s.newCallout st c), _, onRequest_ok turn rule, closed,
        (Table.fetch_put_other _ _ other.symm).trans (Table.fetch_remove_same sorted _), Table.fetch_put_same _ _ _,
        fun k hk hk' => (Table.fetch_put_other _ _ hk').trans (Table.fetch_remove_other _ hk),
        Table.fetch_update_same s.faults _ _, fun k hk => Table.fetch_update_other s.faults _ hk⟩

end Sys2Proof.Machine
end

section
/-! SET CLOCK (O42), SET INTERVAL and the minutes (O43). -/

namespace Sys2Proof.Machine

/-! ### The deadlines that the clock has reached -/

section
variable {s : State}

theorem State.isDue_iff {d : Option Nat} : s.isDue d = true ↔ ∃ m, d = some m ∧ m ≤ s.clock := by
  cases d <;> simp [State.isDue]

theorem State.mem_dueOfSlot {slot : Nat} {d : Deadline} :
    d ∈ s.dueOfSlot slot ↔
      (d = .hold slot ∧ ∃ j, s.jobs.fetch slot = some j ∧ j.holdDeadline ≤ s.clock) ∨
      ∃ p, s.entryOfSlot slot = some p ∧
        ((d = .commit slot ∧ s.isDue p.2.2.commitDeadline = true) ∨ (d = .start slot ∧ s.isDue p.2.2.startDeadline = true) ∨
          (d = .abandon slot ∧ s.isDue p.2.2.abandonDeadline = true)) := by
  rw [State.dueOfSlot, List.mem_append]
  refine or_congr ?_ ?_
  · cases s.jobs.fetch slot with
    | none => simp
    | some j =>
      by_cases h : j.holdDeadline ≤ s.clock
      · simp [h]
      · simp [h]
  · cases s.entryOfSlot slot with
    | none => simp
    | some p =>
      obtain ⟨j, c, e⟩ := p
      simp only [List.mem_append, List.mem_ite_nil_right, List.mem_singleton, Option.some.injEq, exists_eq_left']
      tauto

theorem State.mem_dueFaults {d : Deadline} :
    d ∈ s.dueFaults ↔ ∃ p ∈ s.faults, d = .fault p.2.station p.2.cls ∧ ∃ m, p.2.link = .waiting (some m) ∧ m ≤ s.clock := by
  simp only [State.dueFaults, List.mem_filterMap]
  refine exists_congr fun p => and_congr_right fun _ => ?_
  cases p.2.link with
  | waiting due =>
    by_cases h : s.isDue due = true
    · obtain ⟨m, rfl, hm⟩ := State.isDue_iff.1 h
      simp [h, hm, eq_comm]
    · have : ¬ ∃ m, CalloutLink.waiting due = .waiting (some m) ∧ m ≤ s.clock := by
        rintro ⟨m, e, hm⟩
        exact h (State.isDue_iff.2 ⟨m, by injection e, hm⟩)
      simp only [h, Bool.false_eq_true, if_false, reduceCtorEq, this, and_false]
  | _ => simp

theorem State.mem_dueTiers {d : Deadline} :
    d ∈ s.dueTiers ↔ ∃ p ∈ s.callouts, d = .tier p.1 ∧ ∃ m, p.2.deadline = some m ∧ m ≤ s.clock := by
  simp only [State.dueTiers, List.mem_filterMap, Option.ite_none_right_eq_some, State.isDue_iff, Option.some.injEq]
  exact exists_congr fun p => and_congr_right fun _ => by rw [and_comm, eq_comm]

theorem State.mem_dueReorders {d : Deadline} :
    d ∈ s.dueReorders ↔
      ∃ r ∈ s.reorders, d = .reorder r.number ∧ r.overdue = false ∧ ∃ m, r.due = some m ∧ m ≤ s.clock := by
  simp only [State.dueReorders, List.mem_filterMap, Option.ite_none_right_eq_some, Bool.and_eq_true, State.isDue_iff,
    Bool.not_eq_true', Option.some.injEq]
  exact exists_congr fun r => and_congr_right fun _ => by tauto

theorem State.mem_dueDeadlines {d : Deadline} :
    d ∈ s.dueDeadlines ↔ (∃ slot ∈ s.jobs.numbers, d ∈ s.dueOfSlot slot) ∨ d ∈ s.dueFaults ∨ d ∈ s.dueTiers ∨
      d ∈ s.dueReorders := by
  simp only [State.dueDeadlines, List.mem_append, List.mem_flatMap, or_assoc]

/-! ### Each deadline stands once -/

theorem optional_sublist {α : Type} (b : Prop) [Decidable b] (a : α) : (if b then [a] else []).Sublist [a] := by
  split
  · exact .refl _
  · exact List.nil_sublist _

theorem State.dueOfSlot_nodup (slot : Nat) : (s.dueOfSlot slot).Nodup := by
  have hold : (match s.jobs.fetch slot with
      | some j => if j.holdDeadline ≤ s.clock then [Deadline.hold slot] else []
      | none => []).Sublist [Deadline.hold slot] := by
    split
    · exact optional_sublist _ _
    · exact List.nil_sublist _
  have entry : (match s.entryOfSlot slot with
      | some (_, _, e) =>
        (if s.isDue e.commitDeadline then [Deadline.commit slot] else []) ++
        (if s.isDue e.startDeadline then [Deadline.start slot] else []) ++
        (if s.isDue e.abandonDeadline then [Deadline.abandon slot] else [])
      | none => []).Sublist [Deadline.commit slot, Deadline.start slot, Deadline.abandon slot] := by
    split
    · exact ((optional_sublist _ _).append (optional_sublist _ _)).append (optional_sublist _ _)
    · exact List.nil_sublist _
  exact (hold.append entry).nodup (by simp)

/-- The records of a sorted table stand under distinct numbers. -/
theorem Table.Sorted.distinct {α : Type} {t : Table α} (h : t.Sorted) : t.Pairwise (fun p q => p.1 ≠ q.1) := by
  have := h.nodup
  rwa [Table.numbers_eq_map, List.Nodup, List.pairwise_map] at this

theorem State.dueFaults_nodup (c : s.Canonical) : s.dueFaults.Nodup := by
  refine List.pairwise_filterMap.2 (c.faults.distinct.imp_of_mem fun {p q} hp hq other d hd e he same => other ?_)
  have hp' : d ∈ s.dueFaults := List.mem_filterMap.2 ⟨p, hp, hd⟩
  have deadline {p : Nat × FaultEntry} {d : Deadline} (h : (match p.2.link with
      | .waiting due => if s.isDue due then some (Deadline.fault p.2.station p.2.cls) else none
      | _ => none) = some d) : d = .fault p.2.station p.2.cls := by
    split at h
    · split at h
      · exact (Option.some.inj h).symm
      · cases h
    · cases h
  obtain ⟨station, cls⟩ := Deadline.fault.inj ((deadline hd).symm.trans (same.trans (deadline he)))
  rw [c.classes p hp, c.classes q hq, station, cls]

theorem State.dueTiers_nodup (c : s.Canonical) : s.dueTiers.Nodup := by
  refine List.pairwise_filterMap.2 (c.callouts.distinct.imp fun {p q} other d hd e he same => other ?_)
  rw [Option.ite_none_right_eq_some] at hd he
  exact Deadline.tier.inj ((Option.some.inj hd.2).trans (same.trans (Option.some.inj he.2).symm))

theorem State.dueReorders_nodup (distinct : (s.reorders.map (·.number)).Nodup) : s.dueReorders.Nodup := by
  refine List.pairwise_filterMap.2 ((List.pairwise_map.1 distinct).imp fun {p q} other d hd e he same => other ?_)
  rw [Option.ite_none_right_eq_some] at hd he
  exact Deadline.reorder.inj ((Option.some.inj hd.2).trans (same.trans (Option.some.inj he.2).symm))

/-- The slot of a job's deadline. -/
theorem State.mem_dueOfSlot_slot {slot : Nat} {d : Deadline} (h : d ∈ s.dueOfSlot slot) :
    d = .hold slot ∨ d = .commit slot ∨ d = .start slot ∨ d = .abandon slot := by
  rcases State.mem_dueOfSlot.1 h with ⟨e, _⟩ | ⟨_, _, ⟨e, _⟩ | ⟨e, _⟩ | ⟨e, _⟩⟩ <;> simp [e]

theorem State.dueDeadlines_nodup (c : s.Canonical) (distinct : (s.reorders.map (·.number)).Nodup) :
    s.dueDeadlines.Nodup := by
  have jobs : (s.jobs.numbers.flatMap s.dueOfSlot).Nodup := by
    refine List.nodup_flatMap.2 ⟨fun slot _ => State.dueOfSlot_nodup slot, c.jobs.nodup.imp fun {a b} other d ha hb => other ?_⟩
    have first := State.mem_dueOfSlot_slot ha
    have second := State.mem_dueOfSlot_slot hb
    grind
  have ofJob {d : Deadline} (h : d ∈ s.jobs.numbers.flatMap s.dueOfSlot) :
      ∃ slot, d = .hold slot ∨ d = .commit slot ∨ d = .start slot ∨ d = .abandon slot := by
    obtain ⟨slot, _, hd⟩ := List.mem_flatMap.1 h
    exact ⟨slot, State.mem_dueOfSlot_slot hd⟩
  have faults : (s.jobs.numbers.flatMap s.dueOfSlot ++ s.dueFaults).Nodup := by
    refine jobs.append (State.dueFaults_nodup c) fun d hj hf => ?_
    obtain ⟨p, _, rfl, _⟩ := State.mem_dueFaults.1 hf
    simpa using ofJob hj
  have tiers : (s.jobs.numbers.flatMap s.dueOfSlot ++ s.dueFaults ++ s.dueTiers).Nodup := by
    refine faults.append (State.dueTiers_nodup c) fun d hd ht => ?_
    obtain ⟨p, _, rfl, _⟩ := State.mem_dueTiers.1 ht
    rcases List.mem_append.1 hd with hj | hf
    · simpa using ofJob hj
    · obtain ⟨_, _, e, _⟩ := State.mem_dueFaults.1 hf
      cases e
  refine tiers.append (State.dueReorders_nodup distinct) fun d hd hr => ?_
  obtain ⟨r, _, rfl, _⟩ := State.mem_dueReorders.1 hr
  rcases List.mem_append.1 hd with hd | ht
  · rcases List.mem_append.1 hd with hj | hf
    · simpa using ofJob hj
    · obtain ⟨_, _, e, _⟩ := State.mem_dueFaults.1 hf
      cases e
  · obtain ⟨_, _, e, _⟩ := State.mem_dueTiers.1 ht
    cases e

/-! ### SET CLOCK -/

theorem setClockRule_ok {q : Request} (s : State) (role : q.role = 0) :
    setClockRule q s = .ok { state := s.setClock (q.field 0 4), body := .clockSet s.clock (q.field 0 4) } := by
  simp [setClockRule, authorise_operator role]

theorem State.setClock_back {v : Nat} (h : v ≤ s.clock) : s.setClock v = { s with clock := v } := if_neg (Nat.not_lt.2 h)

theorem State.setClock_forward {v : Nat} (h : s.clock < v) :
    s.setClock v = ({ s with clock := v } : State).allFallDue := if_pos h

/-- The deadlines of a slot that stand with it in the table of jobs. -/
theorem State.mem_dueDeadlines_slot {slot : Nat} {d : Deadline}
    (h : d = .hold slot ∨ d = .commit slot ∨ d = .start slot ∨ d = .abandon slot) :
    d ∈ s.dueDeadlines ↔ slot ∈ s.jobs.numbers ∧ d ∈ s.dueOfSlot slot := by
  have mine {k : Nat} (hk : d ∈ s.dueOfSlot k) : k = slot := by
    have := State.mem_dueOfSlot_slot hk
    grind
  have others : d ∉ s.dueFaults ∧ d ∉ s.dueTiers ∧ d ∉ s.dueReorders := by
    rw [State.mem_dueFaults, State.mem_dueTiers, State.mem_dueReorders]
    rcases h with rfl | rfl | rfl | rfl <;> simp
  obtain ⟨faults, tiers, reorders⟩ := others
  simp only [State.mem_dueDeadlines, faults, tiers, reorders, or_false]
  exact ⟨fun ⟨k, hk, hd⟩ => mine hd ▸ ⟨hk, hd⟩, fun ⟨hk, hd⟩ => ⟨slot, hk, hd⟩⟩

end

/-- Settles O42: the deadlines that fall due are those the clock has reached, in the order of a free choice. -/
theorem setClockMakesDeadlinesFallDue : Obligations.SetClockMakesDeadlinesFallDue := by
  intro s u q rest v turn role hv hu
  subst hv
  have rule := setClockRule_ok (s.leaving rest) role
  refine ⟨fun back => ?back, fun forward => ?forward⟩
  case back =>
    rw [State.setClock_back (s := s.leaving rest) back, ← hu] at rule
    exact onRequest_ok turn rule
  case forward =>
    rw [State.setClock_forward (s := s.leaving rest) forward, ← hu] at rule
    have perm := State.freeOrder_perm u u.dueDeadlines
    have clock : u.clock = q.field 0 4 := by rw [hu]
    have jobs : u.jobs = s.jobs := by rw [hu]; rfl
    have entries (slot : Nat) : u.entryOfSlot slot = s.entryOfSlot slot := by rw [hu]; rfl
    have choices : u.choices = s.choices := by rw [hu]; rfl
    refine ⟨u.freeOrder u.dueDeadlines, fun canonical distinct => ?_, ?_, fun slot => ?_, fun slot => ?_, fun slot => ?_,
      fun slot => ?_, fun st c => ?_, fun n => ?_, fun n => ?_⟩
    · refine perm.nodup_iff.2 (State.dueDeadlines_nodup ?_ (by rw [hu]; exact distinct))
      obtain ⟨links, stations, jobs, generations, tenants, users, consumables, faults, callouts, slots, handles, classes⟩ :=
        canonical
      rw [hu]
      exact ⟨links, stations, jobs, generations, tenants, users, consumables, faults, callouts, slots, handles, classes⟩
    · rw [perm.length_eq, ← choices]
      exact onRequest_ok turn rule
    · rw [perm.mem_iff, State.mem_dueDeadlines_slot (slot := slot) (by simp), State.mem_dueOfSlot, jobs, clock]
      simp
    · rw [perm.mem_iff, State.mem_dueDeadlines_slot (slot := slot) (by simp), State.mem_dueOfSlot, jobs, entries]
      simp [State.isDue_iff, clock]
    · rw [perm.mem_iff, State.mem_dueDeadlines_slot (slot := slot) (by simp), State.mem_dueOfSlot, jobs, entries]
      simp [State.isDue_iff, clock]
    · rw [perm.mem_iff, State.mem_dueDeadlines_slot (slot := slot) (by simp), State.mem_dueOfSlot, jobs, entries]
      simp [State.isDue_iff, clock]
    · rw [perm.mem_iff, State.mem_dueDeadlines, hu]
      simp [State.mem_dueOfSlot, State.mem_dueFaults, State.mem_dueTiers, State.mem_dueReorders, and_assoc,
        eq_comm (a := st), eq_comm (a := c)]
    · rw [perm.mem_iff, State.mem_dueDeadlines, hu]
      simp [State.mem_dueOfSlot, State.mem_dueFaults, State.mem_dueTiers, State.mem_dueReorders]
    · rw [perm.mem_iff, State.mem_dueDeadlines, hu]
      simp [State.mem_dueOfSlot, State.mem_dueFaults, State.mem_dueTiers, State.mem_dueReorders,
        eq_comm (a := n)]

/-! ### The interval counters -/

theorem setIntervalRule_ok {q : Request} (s : State) (role : q.role = 0) (hn : q.field 0 1 < 4) (source : q.field 1 1 ≤ 1)
    (preload : q.field 2 3 ≤ 1000000) :
    let c : Counter := { source := sourceOf (q.field 1 1), preload := q.field 2 3, count := q.field 2 3 }
    setIntervalRule q s = .ok {
      state := { s with counters := s.counters.write (q.field 0 1) c }
      body := .intervalSet (s.counters.item (q.field 0 1)) c } := by
  simp [setIntervalRule, authorise_operator role, hn, source, preload]

theorem Counter.countsMinutes_iff {c : Counter} : c.countsMinutes = true ↔ c.source = .minutes ∧ c.preload ≠ 0 := by
  simp [Counter.countsMinutes]

/-- The expiry that a minute brings, as an option. -/
theorem Counter.expiryAt_eq (n : Nat) (c : Counter) :
    c.expiryAt n = (if c.source = .minutes ∧ c.preload ≠ 0 ∧ c.count ≤ 1 then some (⟨n, .minutes, c.preload⟩ : Expiry)
      else none).toList := by
  rw [Counter.expiryAt]
  by_cases h : c.source = .minutes ∧ c.preload ≠ 0 ∧ c.count ≤ 1
  · obtain ⟨minutes, running, last⟩ := h
    simp [Counter.countsMinutes, minutes, running, last]
  · rw [if_neg h, if_neg]
    · rfl
    · rw [Bool.and_eq_true, Counter.countsMinutes_iff, decide_eq_true_eq, and_assoc]
      exact h

theorem expiriesOf_eq (q : Quad Counter) :
    expiriesOf q = [0, 1, 2, 3].filterMap (fun n =>
      if (q.item n).source = .minutes ∧ (q.item n).preload ≠ 0 ∧ (q.item n).count ≤ 1 then
        some (⟨n, .minutes, (q.item n).preload⟩ : Expiry)
      else none) := by
  rw [expiriesOf, Counter.expiryAt_eq, Counter.expiryAt_eq, Counter.expiryAt_eq, Counter.expiryAt_eq]
  simp [List.filterMap_eq_flatMap_toList, Quad.item]

theorem minuteOf_item (q : Quad Counter) {n : Nat} (h : n < 4) : (minuteOf q).item n = (q.item n).minute := by
  match n, h with
  | 0, _ | 1, _ | 2, _ | 3, _ => rfl

/-- Settles O43: the counter written, and each counter's minute. -/
theorem countersAreWrittenAndCount : Obligations.CountersAreWrittenAndCount := by
  refine ⟨?set, fun s running => ⟨minuteOf s.counters, ?_, fun n hn => ⟨fun stands => ?_, fun minutes runs => ?_⟩⟩⟩
  case set =>
    intro s q rest n source preload c turn role hn hs hp hlt hsource hpreload hc
    subst hn hs hp hc
    exact ⟨_, onRequest_ok turn (setIntervalRule_ok (s.leaving rest) role hlt hsource hpreload),
      Quad.item_write _ hlt _, fun k hk other => Quad.item_write_other _ hlt hk other _⟩
  · rw [← expiriesOf_eq]
    exact congrArg Host.Outcome.next (State.whileRunning_run running _)
  · rw [minuteOf_item _ hn, Counter.minute, if_neg]
    rw [Counter.countsMinutes_iff]
    rintro ⟨minutes, runs⟩
    rcases stands with other | stopped
    · rw [minutes] at other; cases other
    · exact runs stopped
  · rw [minuteOf_item _ hn, Counter.minute, if_pos (Counter.countsMinutes_iff.2 ⟨minutes, runs⟩)]

end Sys2Proof.Machine
end

section
/-! The expiries of the interval counters (O44). -/

namespace Sys2Proof.Machine

/-! ### IC0 and IC1: the accounts roll over -/

theorem Account.rollOver_eq (m : Mode) (allowance : Nat) (a : Account) :
    a.rollOver m allowance =
      { used := if m = .limited then a.used - allowance else 0
        reserved := a.reserved, warned := false, stopped := false, saturated := false } := by
  cases m <;> rfl

section
variable {s : State} {r : Reorder} {t : Tenant}

theorem State.promoteOne_idle (ht : s.tenants.fetch r.tenant = some t)
    (stays : r.state ≠ .deferred ∨ (t.suppliesMode = .limited ∧ t.suppliesAllowance ≤ t.suppliesUsed)) :
    s.promoteOne r = s := by
  refine if_neg ?_
  rw [Bool.and_eq_true, decide_eq_true_eq, State.tenantOf_eq ht, Tenant.hasSupplies_iff]
  rintro ⟨deferred, room⟩
  rcases stays with stays | ⟨limited, spent⟩
  · exact stays deferred
  · rcases room with unlimited | room
    · rw [limited] at unlimited; cases unlimited
    · omega

/-- A promotion counts the reorder and queues its notice with the new counts (R143). -/
theorem State.promoteOne_eq (ht : s.tenants.fetch r.tenant = some t) (deferred : r.state = .deferred)
    (room : t.suppliesMode = .unlimited ∨ t.suppliesUsed < t.suppliesAllowance) :
    s.promoteOne r = ({ s with
        tenants := s.tenants.update r.tenant (fun x => { x with suppliesUsed := countOne x.suppliesUsed })
        reorders := s.reorders.map (fun o => if o.number = r.number then { o with state := .proposed } else o) } : State).notify
      (.reorderProposed r.number r.station r.colour r.tenant r.cause r.level r.cover (countOne t.suppliesUsed)
        t.suppliesAllowance false true) := by
  have counted : (((s.updateReorder r.number (fun x => { x with state := .proposed })).setSuppliesUsed r.tenant
      countOne).tenantOf r.tenant) = { t with suppliesUsed := countOne t.suppliesUsed } :=
    State.tenantOf_eq ((Table.fetch_update_same s.tenants _ _).trans (by rw [ht]; rfl))
  have promoted : (decide (r.state = .deferred) && (s.tenantOf r.tenant).hasSupplies) = true := by
    rw [State.tenantOf_eq ht, Tenant.hasSupplies_iff.2 room, deferred]; rfl
  rw [State.promoteOne, if_pos promoted]
  simp only [State.proposedNotice, counted]
  rfl

/-- A walk over reorders of which none is DEFERRED promotes none. -/
theorem State.promoteAll_idle {rs : List Reorder} (h : ∀ r ∈ rs, r.state ≠ .deferred) (s : State) :
    rs.foldl State.promoteOne s = s := by
  induction rs with
  | nil => rfl
  | cons r rs ih =>
    obtain ⟨hr, hrs⟩ := List.forall_mem_cons.1 h
    have idle : s.promoteOne r = s := if_neg (by simp [hr])
    rw [List.foldl_cons, idle, ih hrs]

end

/-! ### IC2: the sample -/

theorem tonerOf_eq (n : Nat) : tonerOf n = if n = 0 then .k else if n = 1 then .c else if n = 2 then .m else .y := by
  match n with
  | 0 | 1 | 2 => rfl
  | n + 3 => rfl

theorem State.hasConsumables_eq (s : State) :
    s.hasConsumables = fun st => s.consumables.has (st * 4) || s.consumables.has (st * 4 + 1) ||
      s.consumables.has (st * 4 + 2) || s.consumables.has (st * 4 + 3) := by
  funext st
  simp [State.hasConsumables, allToners, consumableKey, tonerCode, Bool.or_assoc]

/-! ### IC3: the reminders -/

theorem State.floorOf_eq (s : State) (st : Nat) : s.floorOf st = ((s.stations.fetch st).map (·.floor)).getD 0 := by
  unfold State.floorOf
  cases s.stations.fetch st <;> rfl

/-- The reminders of the STALLED callouts, whose floors no reminder changes (R159). -/
theorem State.remindAll_eq {s : State} (ps : List (Nat × Callout)) {a : State} (h : a.stations = s.stations) :
    ps.foldl State.remind a = (ps.filter (fun p => p.2.state = .stalled)).foldl
      (fun b p => b.notify (.calloutStalled p.1 p.2.station (((s.stations.fetch p.2.station).map (·.floor)).getD 0) p.2.cls
        p.2.tier p.2.opened p.2.recurrence true)) a := by
  induction ps generalizing a with
  | nil => rfl
  | cons p ps ih =>
    rw [List.foldl_cons, List.filter_cons, State.remind]
    by_cases stalled : p.2.state = .stalled
    · rw [if_pos stalled, if_pos (decide_eq_true stalled), List.foldl_cons, State.floorOf_eq, h,
        ih ((State.notify_stations _ _).trans h)]
    · rw [if_neg stalled, if_neg (by simpa using stalled), ih h]

/-! ### The expiry -/

theorem exec_intervalExpired {s : State} {n : Fin 4} {e : Expiry} (running : s.resetHeld = false)
    (he : s.expiries.find? (fun e => e.counter = n.val) = some e) :
    exec (.intervalExpired n) s = .next ((({ s with expiries := s.expiries.erase e } : State).notify
      (.intervalExpired n.val e.source e.preload)).ownerActs n.val) := by
  have counter : e.counter = n.val := by simpa using List.find?_some he
  refine congrArg Host.Outcome.next ((State.whileRunning_run running _).trans ?_)
  simp only [State.takeExpiry, he, State.expire, counter]

/-- Settles O44: each owner's action, spelt out. -/
theorem expiriesActAtTheirOwners : Obligations.ExpiriesActAtTheirOwners := by
  intro s a n e running he ha
  have exec_ := exec_intervalExpired running he
  rw [← ha] at exec_
  have users : a.users = s.users := by rw [ha, State.notify_users]
  have tenants : a.tenants = s.tenants := by rw [ha, State.notify_tenants]
  have reorders : a.reorders = s.reorders := by rw [ha, State.notify_reorders]
  have consumables : a.consumables = s.consumables := by rw [ha, State.notify_consumables]
  have stations : a.stations = s.stations := by rw [ha, State.notify_stations]
  have callouts : a.callouts = s.callouts := by rw [ha, State.notify_callouts]
  refine ⟨fun hn => ?users, fun hn => ?tenants, fun hn => ?sample, fun hn => ?reminders⟩
  case users =>
    subst hn
    rw [← users]
    refine ⟨_, exec_, fun k => (Table.fetch_mapRecords _ _ _).trans ?_⟩
    simp only [Account.rollOver_eq]
  case tenants =>
    subst hn
    rw [← tenants, ← reorders]
    have kept : a.rollTenants.reorders = a.reorders := State.notify_reorders _ _
    have rolled : a.rollTenants.endSuppliesPeriod = a.reorders.foldl State.promoteOne { a.rollTenants with
        tenants := a.rollTenants.tenants.mapRecords (fun _ t => { t with suppliesUsed := 0 }) } := by
      rw [← kept]; rfl
    have rolledTenants : a.rollTenants.tenants = a.tenants.mapRecords (fun _ t => { t with
        account := t.account.rollOver t.quotaMode t.allowance }) := State.notify_tenants _ _
    rw [rolledTenants] at rolled
    refine ⟨_, a.rollTenants, rfl, exec_, fun k => ?_, ⟨_, fun k => Table.fetch_mapRecords _ _ _, ?_⟩,
      fun p r t ht => ⟨State.promoteOne_idle ht, fun deferred room => ⟨_, State.promoteOne_eq ht deferred room, ?_,
        fun k hk => Table.fetch_update_other p.tenants _ hk⟩⟩, fun none => ?_⟩
    · refine (Table.fetch_mapRecords _ _ _).trans ?_
      simp only [Account.rollOver_eq]
    · exact rolled
    · rw [Table.fetch_update_same, ht]; rfl
    · rw [rolled, State.promoteAll_idle none]
      exact ⟨rfl, fun k => Table.fetch_mapRecords _ _ _⟩
  case sample =>
    subst hn
    rw [← consumables, ← Table.numbers_mapRecords (fun _ r => r.sampled) a.consumables]
    refine ⟨_, _, fun k => Table.fetch_mapRecords (fun _ r => r.sampled) a.consumables k, rfl, exec_.trans ?_⟩
    have acts : a.ownerActs (2 : Fin 4).val = a.sample := rfl
    simp only [acts, State.sample, tonerOf_eq, State.hasConsumables_eq]
  case reminders =>
    subst hn
    rw [exec_, ← callouts]
    exact congrArg Host.Outcome.next (State.remindAll_eq a.callouts stations)

end Sys2Proof.Machine
end

section
/-! The pass of a riser (O45). -/

namespace Sys2Proof.Machine

/-! ### Visits -/

theorem State.visits_iff {s : State} {r d : Nat} :
    s.visits r d = true ↔
      (∃ l, s.links.fetch (stationAt r d) = some l ∧ (l.silent = false ∨ l.phase = 0)) ∨
      (s.links.fetch (stationAt r d) = none ∧ ∃ w, (s.risers.item r).sweep = some w ∧ d ∈ w.addresses) := by
  unfold State.visits
  cases s.links.fetch (stationAt r d) with
  | some l => simp
  | none =>
    simp only [Riser.sweeps, reduceCtorEq, false_and, exists_false, true_and, false_or]
    cases (s.risers.item r).sweep <;> simp

/-- A visit of an address depends on its own link record and on the sweep list. -/
theorem State.visits_links {s : State} {ls : Table Link} {r d : Nat}
    (h : ls.fetch (stationAt r d) = s.links.fetch (stationAt r d)) :
    ({ s with links := ls } : State).visits r d = s.visits r d := by
  simp only [State.visits, h]

theorem stationAt_ne {r a b : Nat} (ha : 1 ≤ a) (hb : a < b) : stationAt r b ≠ stationAt r a := by
  unfold stationAt; omega

/-- The phases after the pass has gone past `m` addresses from `a` on. -/
def State.phasesPassed (s : State) (r a m : Nat) (ls : Table Link) : Prop :=
  ∀ st, ls.fetch st = (s.links.fetch st).map (fun l =>
    if r * 24 + (a - 1) ≤ st ∧ st < r * 24 + (a + m - 1) then { l with phase := l.phase - 1 } else l)

theorem State.phasesPassed_zero (s : State) (r a : Nat) (ha : 1 ≤ a) : s.phasesPassed r a 0 s.links := fun st => by
  have none : ¬ (r * 24 + (a - 1) ≤ st ∧ st < r * 24 + (a + 0 - 1)) := by omega
  simp only [none, if_false]
  exact Option.map_id'.symm

theorem State.phasesPassed_succ {s : State} {r a m : Nat} (ha : 1 ≤ a) {ls : Table Link}
    (h : (s.passOver r a).phasesPassed r (a + 1) m ls) : s.phasesPassed r a (m + 1) ls := fun st => by
  rw [h st]
  show ((s.links.update (stationAt r a) (fun l => { l with phase := l.phase - 1 })).fetch st).map _ = _
  rw [Table.fetch_update_map, Option.map_map]
  refine congrArg (Option.map · _) (funext fun l => ?_)
  have place : stationAt r a = r * 24 + (a - 1) := rfl
  rw [Function.comp_apply]
  by_cases here : st = stationAt r a
  · rw [if_pos here, if_neg (by omega), if_pos (by omega)]
  · rw [if_neg here]
    exact if_congr (by omega) rfl rfl

/-- An address outside those passed keeps its link record. -/
theorem State.phasesPassed_outside {s : State} {r a m : Nat} {ls : Table Link} (h : s.phasesPassed r a m ls) {st : Nat}
    (out : ¬ (r * 24 + (a - 1) ≤ st ∧ st < r * 24 + (a + m - 1))) : ls.fetch st = s.links.fetch st := by
  rw [h st]
  simp only [out, if_false]
  exact Option.map_id'

/-- The pass goes past addresses that it does not visit (R112). -/
theorem State.pass_over {r : Nat} (m : Nat) {a : Nat} (ha : 1 ≤ a) {s : State}
    (h : ∀ k, a ≤ k → k < a + m → s.visits r k = false) :
    ∃ ls, (∀ n, State.pass r (m + n) a s = State.pass r n (a + m) { s with links := ls }) ∧ s.phasesPassed r a m ls := by
  induction m generalizing a s with
  | zero => exact ⟨s.links, fun n => by rw [Nat.zero_add]; rfl, s.phasesPassed_zero r a ha⟩
  | succ m ih =>
    obtain ⟨ls, goes, phases⟩ := ih (a := a + 1) (by omega) (s := s.passOver r a) fun k hk hk' => by
      have other : (s.links.update (stationAt r a) (fun l => { l with phase := l.phase - 1 })).fetch (stationAt r k) =
        s.links.fetch (stationAt r k) := Table.fetch_update_other _ _ (stationAt_ne ha (by omega))
      exact (State.visits_links other).trans (h k (by omega) (by omega))
    refine ⟨ls, fun n => ?_, State.phasesPassed_succ ha phases⟩
    have here : s.visits r a = false := h a (Nat.le_refl _) (by omega)
    rw [Nat.add_right_comm m 1 n, State.pass, if_neg (by simp [here]), goes, Nat.add_right_comm a 1 m]
    rfl

/-- The pass stops at the first address that it visits. -/
theorem State.pass_visits {s : State} {r d : Nat} (h : s.visits r d = true) (n : Nat) :
    State.pass r (n + 1) d s = (some d, s) := by simp [State.pass, h]

/-! ### Polls -/

/-- The poll that an address is sent (R113, R115, R121). -/
def State.pollOf (s : State) (r d made : Nat) : AwaitedPoll :=
  match s.links.fetch (stationAt r d) with
  | some l => { drop := d, ack := l.accepted, command := l.commands.head?, trial := false, made := made }
  | none => { drop := d, ack := none, command := none, trial := true, made := made }

theorem State.sendPoll_eq (s : State) (r d made : Nat) :
    s.sendPoll r d made =
      s.updateRiser r (fun x => { x with position := d, awaited := some (s.pollOf r d made), again := 0 }) := rfl

section
variable {s : State} {r : Nat}

theorem State.nextPoll_again (awaited : (s.risers.item r).awaited = none) (again : (s.risers.item r).again ≠ 0) :
    s.nextPoll r = s.sendPoll r (s.risers.item r).position ((s.risers.item r).again + 1) := by
  simp [State.nextPoll, awaited, again]

theorem State.nextPoll_passes {d : Nat} {t : State} (awaited : (s.risers.item r).awaited = none)
    (again : (s.risers.item r).again = 0)
    (h : State.pass r (25 - (s.risers.item r).position) (s.risers.item r).position s = (some d, t)) :
    s.nextPoll r = t.sendPoll r d 1 := by
  simp [State.nextPoll, awaited, again, h]

theorem State.idleCycle_none {t : State} (awaited : (s.risers.item r).awaited = none) (again : (s.risers.item r).again = 0)
    (position : (s.risers.item r).position = 1) (h : State.pass r 24 1 s = (none, t)) : s.idleCycle r = t := by
  simp [State.idleCycle, awaited, again, position, h]

end

/-- Settles O45: the visit's next poll, the pass to the next address visited, and the cycle without a visit. -/
theorem pollVisitsTheNextAddress : Obligations.PollVisitsTheNextAddress := by
  refine ⟨fun s r d => State.visits_iff, ?again, ?passes, ?empty⟩
  case again =>
    intro s r x l running hx awaited again hl
    subst hx
    have poll := State.nextPoll_again awaited again
    have sent : s.pollOf r.val (s.risers.item r.val).position ((s.risers.item r.val).again + 1) =
        { drop := (s.risers.item r.val).position, ack := l.accepted, command := l.commands.head?, trial := false
          made := (s.risers.item r.val).again + 1 } := by
      simp only [State.pollOf, stationAt, hl]
    rw [State.sendPoll_eq, sent] at poll
    exact ⟨_, congrArg Host.Outcome.next ((State.whileRunning_run running _).trans poll), Quad.item_write _ r.isLt _,
      fun k hk other => Quad.item_write_other _ r.isLt hk other _⟩
  case passes =>
    intro s r x d p running hx awaited again hp hpd hd passed visited hpoll
    subst hx
    obtain ⟨m, hm⟩ : ∃ m, d = (s.risers.item r.val).position + m := ⟨d - (s.risers.item r.val).position, by omega⟩
    obtain ⟨ls, goes, phases⟩ := State.pass_over (s := s) (r := r.val) m hp fun k h1 h2 => passed k h1 (by omega)
    have here : ls.fetch (stationAt r.val d) = s.links.fetch (stationAt r.val d) :=
      State.phasesPassed_outside phases (by unfold stationAt; omega)
    have found : State.pass r.val (25 - (s.risers.item r.val).position) (s.risers.item r.val).position s =
        (some d, { s with links := ls }) := by
      rw [show 25 - (s.risers.item r.val).position = m + (24 - d + 1) by omega, goes, ← hm]
      exact State.pass_visits ((State.visits_links here).trans visited) _
    have poll := State.nextPoll_passes awaited again found
    have sent : ({ s with links := ls } : State).pollOf r.val d 1 = p := by
      rw [hpoll, State.pollOf]
      simp only [here]
      rfl
    rw [State.sendPoll_eq, sent] at poll
    refine ⟨_, ls, congrArg Host.Outcome.next ((State.whileRunning_run running _).trans poll), Quad.item_write _ r.isLt _,
      fun k hk other => Quad.item_write_other _ r.isLt hk other _, fun st => ?_⟩
    rw [phases st, hm]
  case empty =>
    intro s r running awaited again position idle
    obtain ⟨ls, goes, phases⟩ := State.pass_over (s := s) (r := r.val) 24 (a := 1) (by omega)
      fun k h1 h2 => idle k h1 (by omega)
    have cycle := State.idleCycle_none awaited again position (goes 0)
    refine ⟨ls, congrArg Host.Outcome.next ((State.whileRunning_run running _).trans cycle), fun st => ?_⟩
    rw [phases st]
    refine congrArg (Option.map · _) (funext fun l => if_congr ?_ rfl rfl)
    omega

end Sys2Proof.Machine
end

section
/-! The outcome of a poll: misses (O46) and sweep trials (O47). -/

namespace Sys2Proof.Machine

/-! ### Misses -/

section
variable {s : State} {r : Nat} {p : AwaitedPoll}

theorem State.missEnds_discarded (awaited : (s.risers.item r).awaited = some p) (h : p.discarded = true) :
    s.missEnds r = s.endVisit r p.drop := by simp [State.missEnds, State.pollEnds, awaited, h]

theorem State.missEnds_regular (awaited : (s.risers.item r).awaited = some p) (kept : p.discarded = false)
    (regular : p.trial = false) : s.missEnds r = s.regularMiss r p := by
  simp [State.missEnds, State.pollEnds, awaited, kept, regular]

/-- A station that is not silenced by this miss (R117, R118). -/
theorem State.regularMiss_quiet {l : Link} (hl : s.links.fetch (stationAt r p.drop) = some l)
    (h : l.silent = true ∨ l.misses < 2) :
    s.regularMiss r p = (s.endVisit r p.drop).updateLink (stationAt r p.drop) Link.missed := by
  have quiet : (!l.silent && decide (2 ≤ l.misses)) = false := by
    rcases h with h | h
    · simp [h]
    · simp [Nat.not_le.2 h]
  simp [State.regularMiss, hl, quiet]

theorem State.regularMiss_silences {l : Link} (hl : s.links.fetch (stationAt r p.drop) = some l) (h1 : l.silent = false)
    (h2 : 2 ≤ l.misses) :
    s.regularMiss r p = ((s.endVisit r p.drop).updateLink (stationAt r p.drop) Link.missed).setFault (stationAt r p.drop)
      .silent noColours := by simp [State.regularMiss, hl, h1, h2]

/-- A reply that names another address is a miss (R110). -/
theorem State.replyArrives_elsewhere {h : ReplyHeader} (awaited : (s.risers.item h.riser.val).awaited = some p)
    (other : h.drop ≠ p.drop) (ev : LinkEvent) : s.replyArrives h ev = s.missEnds h.riser.val := by
  cases kept : p.discarded with
  | true => simp [State.replyArrives, State.missEnds, State.pollEnds, awaited, kept]
  | false => simp [State.replyArrives, State.pollEnds, awaited, kept, other]

end

theorem Link.missed_counts {l : Link} (h1 : l.silent = false) (h2 : l.misses < 2) :
    l.missed = { l with misses := l.misses + 1 } := by simp [Link.missed, h1, h2]

theorem Link.missed_silences {l : Link} (h1 : l.silent = false) (h2 : 2 ≤ l.misses) :
    l.missed = { l with misses := 3, silent := true, phase := 15 } := by simp [Link.missed, h1, h2]

theorem Link.missed_silent {l : Link} (h : l.silent = true) : l.missed = { l with phase := 15 } := by simp [Link.missed, h]

/-- Settles O46: the miss by the link record, and the replies that are misses. -/
theorem thirdMissSilencesTheStation : Obligations.ThirdMissSilencesTheStation := by
  intro s r x p running hx awaited
  subst hx
  have miss : exec (.miss r) s = .next (s.missEnds r.val) :=
    congrArg Host.Outcome.next (State.whileRunning_run running _)
  rw [miss]
  refine ⟨_, Quad.item_write _ r.isLt _, fun k hk other => Quad.item_write_other _ r.isLt hk other _,
    fun discarded => congrArg Host.Outcome.next (State.missEnds_discarded awaited discarded),
    fun l st kept regular hst hl => ?link, fun h hr other => ?replies⟩
  case link =>
    subst hst
    have missed : (s.links.update (stationAt r.val p.drop) Link.missed).fetch (stationAt r.val p.drop) = some l.missed := by
      rw [Table.fetch_update_same]; exact congrArg (Option.map Link.missed) hl
    rw [State.missEnds_regular awaited kept regular]
    refine ⟨_, fun k hk => Table.fetch_update_other s.links _ hk, fun h1 h2 => ⟨?_, missed.trans ?_⟩,
      fun h1 h2 => ⟨?_, missed.trans ?_⟩, fun h => ⟨?_, missed.trans ?_⟩⟩
    · exact congrArg Host.Outcome.next (State.regularMiss_quiet hl (.inr h2))
    · rw [Link.missed_counts h1 h2]
    · exact congrArg Host.Outcome.next (State.regularMiss_silences hl h1 h2)
    · rw [Link.missed_silences h1 h2]
    · exact congrArg Host.Outcome.next (State.regularMiss_quiet hl (.inl h))
    · rw [Link.missed_silent h]
  case replies =>
    subst hr
    have arrives (ev : LinkEvent) : onReply h ev s = .next (s.missEnds h.riser.val) := by
      rw [onReply_running h ev running, State.replyArrives_elsewhere awaited other]
    exact ⟨arrives _, arrives _, fun _ _ _ => arrives _, fun _ => arrives _, fun _ => arrives _,
      fun _ _ _ _ => ⟨arrives _, arrives _, fun _ => arrives _⟩, fun _ _ _ _ => arrives _,
      fun _ _ => ⟨arrives _, arrives _⟩, arrives _, arrives _⟩

/-! ### Sweep trials -/

section
variable {s : State} {r : Nat} {p : AwaitedPoll}

theorem State.trial_awaited (awaited : (s.risers.item r).awaited = some p) (trial : p.trial = true)
    (kept : p.discarded = false) (reply : TrialReply) : s.trial r reply = s.trialOutcome r p reply := by
  simp [State.trial, State.pollEnds, awaited, trial, kept]

/-- A trial whose poll has not been sent sends it (assumption 16). -/
theorem State.trial_sends (idle : (s.risers.item r).awaited = none)
    (awaited : ((s.nextPoll r).risers.item r).awaited = some p) (trial : p.trial = true) (reply : TrialReply) :
    s.trial r reply = (s.nextPoll r).trial r reply := by
  simp [State.trial, idle, awaited, trial]

theorem State.pass_resetHeld (r n d : Nat) (s : State) : (State.pass r n d s).2.resetHeld = s.resetHeld := by
  induction n generalizing d s with
  | zero => rfl
  | succ n ih =>
    rw [State.pass]
    split
    · rfl
    · exact ih _ _

theorem State.nextPoll_resetHeld (s : State) (r : Nat) : (s.nextPoll r).resetHeld = s.resetHeld := by
  unfold State.nextPoll
  dsimp only []
  split
  · rfl
  · split
    · rfl
    · split
      · rename_i d t h
        exact (congrArg (fun p => State.resetHeld p.2) h).symm.trans (State.pass_resetHeld _ _ _ _)
      · rename_i t h
        have passed : t.resetHeld = s.resetHeld :=
          (congrArg (fun p => State.resetHeld p.2) h).symm.trans (State.pass_resetHeld _ _ _ _)
        split
        · rfl
        · split
          · rename_i d u hu
            exact ((congrArg (fun p => State.resetHeld p.2) hu).symm.trans (State.pass_resetHeld _ _ _ _)).trans passed
          · exact passed

theorem helloValid_iff {caps sizes : Nat} : helloValid caps sizes = true ↔ caps < 4 ∧ sizes ≠ 0 ∧ sizes < 8 := by
  simp only [helloValid, Bool.and_eq_true, decide_eq_true_eq]
  omega

theorem State.trialOutcome_found {seq : Bool} {model : BitVec 16} {caps sizes : Byte}
    (h : helloValid caps.toNat sizes.toNat = true) :
    s.trialOutcome r p (.hello seq model caps sizes) =
      ((s.endVisit r p.drop).createStation (stationAt r p.drop) model.toNat (caps.toNat.testBit 0) (caps.toNat.testBit 1)
        (sizeSetOf sizes.toNat) seq).countTrial r p.drop true := by
  simp only [State.trialOutcome, h, if_true]

theorem State.trialOutcome_illFormed {seq : Bool} {model : BitVec 16} {caps sizes : Byte}
    (h : helloValid caps.toNat sizes.toNat = false) :
    s.trialOutcome r p (.hello seq model caps sizes) = (s.endVisit r p.drop).countTrial r p.drop false := by
  simp only [State.trialOutcome, h, Bool.false_eq_true, if_false]

/-- The sweep after a trial of an address (R125). -/
def Sweep.after (w : Sweep) (d : Nat) (found : Bool) : Sweep :=
  ⟨w.addresses.erase d, w.tried + 1, if found then w.found + 1 else w.found⟩

theorem State.countTrial_last {d : Nat} {found : Bool} {w : Sweep} (hw : (s.risers.item r).sweep = some w)
    (h : w.addresses.erase d = []) :
    s.countTrial r d found = (s.updateRiser r (fun x => { x with sweep := none })).notify
      (.sweepDone r (w.tried + 1) (if found then w.found + 1 else w.found) false) := by
  simp [State.countTrial, hw, h]

theorem State.countTrial_more {d : Nat} {found : Bool} {w : Sweep} (hw : (s.risers.item r).sweep = some w)
    (h : w.addresses.erase d ≠ []) :
    s.countTrial r d found = s.updateRiser r (fun x => { x with sweep := some (w.after d found) }) := by
  have : (w.addresses.erase d).isEmpty = false := by rwa [Bool.eq_false_iff, ne_eq, List.isEmpty_iff]
  simp [State.countTrial, hw, this, Sweep.after]

end

/-- The key of a consumable names its station. -/
theorem consumableKey_div (st : Nat) (col : Toner) : consumableKey st col / 4 = st := by
  have : tonerCode col < 4 := by cases col <;> decide
  rw [consumableKey]; omega

/-- Settles O47: the outcomes of a trial, its own poll, and the sweep's count. -/
theorem sweepTrialFindsAStation : Obligations.SweepTrialFindsAStation := by
  refine ⟨?outcome, ?sends, ?count⟩
  case outcome =>
    intro s r p st running awaited trial kept hst
    subst hst
    have outcome (reply : TrialReply) : exec (.sweepTrial r reply) s = .next (s.trialOutcome r.val p reply) :=
      congrArg Host.Outcome.next ((State.whileRunning_run running _).trans (State.trial_awaited awaited trial kept reply))
    refine ⟨outcome .miss, outcome .other, fun seq model caps sizes => ⟨fun bad => ?_, fun h1 h2 h3 => ?found⟩⟩
    · rw [outcome, State.trialOutcome_illFormed]
      rw [Bool.eq_false_iff, ne_eq, helloValid_iff]
      omega
    case found =>
      have found := State.trialOutcome_found (s := s) (r := r.val) (p := p) (seq := seq) (model := model)
        (helloValid_iff.2 ⟨h1, h2, h3⟩)
      refine ⟨_, _, _, (outcome _).trans (congrArg Host.Outcome.next found), Table.fetch_put_same s.stations _ _,
        fun k hk => Table.fetch_put_other s.stations _ hk, ?_, fun k hk => ?_, fun col hcol => ?_, fun k hk => ?_⟩
      · refine (Table.fetch_update_same _ _ _).trans ?_
        exact congrArg (Option.map _) (Table.fetch_put_same s.links _ _)
      · exact (Table.fetch_update_other _ _ hk).trans (Table.fetch_put_other s.links _ hk)
      · refine (Table.fetch_putAll _ _ _ _ _).trans (if_pos ?_)
        refine List.mem_map.2 ⟨col, ?_, rfl⟩
        rcases hcol with rfl | colour
        · split
          · exact List.mem_cons_self
          · exact List.mem_cons_self
        · rw [if_pos (show caps.toNat.testBit 0 = true from colour)]
          cases col <;> decide
      · refine (Table.fetch_putAll _ _ _ _ _).trans (if_neg fun mine => hk ?_)
        obtain ⟨col, _, rfl⟩ := List.mem_map.1 mine
        exact consumableKey_div _ col
  case sends =>
    intro s r p reply running idle awaited trial
    refine congrArg Host.Outcome.next ((State.whileRunning_run running _).trans ?_)
    rw [State.trial_sends idle awaited trial]
    exact (State.whileRunning_run ((State.nextPoll_resetHeld s r.val).trans running) (fun s => s.trial r.val reply)).symm
  case count =>
    intro s r d found w hw
    by_cases last : w.addresses.erase d = []
    · exact ⟨_, fun k hk other => Quad.item_write_other _ r.isLt hk other _,
        fun _ => ⟨Quad.item_write _ r.isLt _, State.countTrial_last hw last⟩, fun more => absurd last more⟩
    · exact ⟨_, fun k hk other => Quad.item_write_other _ r.isLt hk other _, fun h => absurd h last,
        fun _ => ⟨Quad.item_write _ r.isLt _, State.countTrial_more hw last⟩⟩

end Sys2Proof.Machine
end

section
/-! Good replies without a new event (O48), and HELLO, PAUSE and RESUME (O49). -/

namespace Sys2Proof.Machine

/-! ### The link's work -/

section
variable {s : State} {h : ReplyHeader} {p : AwaitedPoll} {l : Link}

theorem onReply_idle (heard : s.Heard h p l) : onReply h .idle s = .next (s.afterReply h p l true) := by
  rw [onReply_running h _ heard.running, heard.old (by rfl)]
  rfl

/-- An event that is not new is not passed on (R114, R116). -/
theorem onReply_old (heard : s.Heard h p l) {ev : LinkEvent} (sequenced : ev ≠ .idle)
    (old : ev.isNew l.accepted h.seq = false) : onReply h ev s = .next (s.afterReply h p l false) := by
  rw [onReply_running h _ heard.running, heard.old old, decide_eq_false sequenced]

/-- An unknown new event is discarded (R114). -/
theorem State.route_unknown (s : State) (st : Nat) : s.route st .unknown = s := by
  unfold State.route
  split
  · rfl
  · rfl

/-- A link record after step 1 of R114. -/
def Link.healthy (l : Link) : Link := { l with misses := 0, silent := false, phase := if l.silent then 0 else l.phase }

theorem Link.healthy_regular {l : Link} (h : l.silent = false) : l.healthy = { l with misses := 0 } := by
  simp [Link.healthy, h]

theorem Link.healthy_silent {l : Link} (h : l.silent = true) :
    l.healthy = { l with misses := 0, silent := false, phase := 0 } := by simp [Link.healthy, h]

theorem Link.taken_eq {l : Link} {c : Command} (h : l.commands.contains c = true) :
    l.taken c = { l with commands := l.commands.erase c ++ l.held.take 1, held := l.held.drop 1 } := by
  rw [Link.taken, if_pos h]
  cases l.held <;> simp

theorem State.commandTaken_none {st : Nat} (none : p.command = none ∨ h.taken = false) : s.commandTaken st p h.taken = s := by
  unfold State.commandTaken
  split
  · rename_i c hc
    rcases none with none | none
    · rw [none] at hc; cases hc
    · rw [none]; rfl
  · rfl

theorem State.commandTaken_some {st : Nat} {c : Command} (hc : p.command = some c) (taken : h.taken = true) :
    s.commandTaken st p h.taken = s.updateLink st (fun l => l.taken c) := by
  simp [State.commandTaken, hc, taken]

theorem State.linkHealth_regular {st : Nat} (h : l.silent = false) : s.linkHealth st l = s.updateLink st Link.healthy := by
  simp only [State.linkHealth, h, Bool.false_eq_true, if_false]
  rfl

theorem State.linkHealth_silent {st : Nat} (h : l.silent = true) :
    s.linkHealth st l = (s.updateLink st Link.healthy).clearFault st .silent noColours := by
  simp only [State.linkHealth, h, if_true]
  rfl

/-- The controller after a good reply (R113). -/
theorem State.afterGood_eq (s : State) (r : Nat) (p : AwaitedPoll) (idle : Bool) :
    s.afterGood r p idle = s.updateRiser r (fun x => { x with
      awaited := none
      position := if idle = false ∧ p.made < (s.risers.item r).burst then p.drop else nextDrop p.drop
      again := if idle = false ∧ p.made < (s.risers.item r).burst then p.made else 0 }) := by
  unfold State.afterGood
  by_cases more : idle = false ∧ p.made < (s.risers.item r).burst
  · rw [if_pos (by simpa using more)]
    simp only [more, and_self, if_true]
  · rw [if_neg (by simpa using more)]
    simp only [more, if_false]
    rfl

end

/-- Settles O48: the event's passage, and the link's work by the command taken and the silent mark. -/
theorem repliesWithoutANewEvent : Obligations.RepliesWithoutANewEvent := by
  intro s h p l heard
  refine ⟨onReply_idle heard, fun new => ?new, fun old => ?old, fun idle => ?work⟩
  case new =>
    have passed := onReply_new heard (ev := .unknown) LinkEvent.noConfusion (by simpa [LinkEvent.isNew] using new)
    rwa [State.route_unknown] at passed
  case old =>
    have repeated {ev : LinkEvent} (sequenced : ev ≠ .idle) (same : ev.isNew l.accepted h.seq = decide (l.accepted ≠ some h.seq)) :
        onReply h ev s = .next (s.afterReply h p l false) := onReply_old heard sequenced (by rw [same, old]; simp)
    exact ⟨repeated nofun rfl, fun _ => repeated nofun rfl, fun _ => repeated nofun rfl, fun _ _ _ _ => repeated nofun rfl,
      fun _ _ _ _ => repeated nofun rfl, fun _ _ _ _ _ => repeated nofun rfl, fun _ _ _ _ => repeated nofun rfl,
      fun _ _ => repeated nofun rfl, fun _ _ => repeated nofun rfl, repeated nofun rfl, repeated nofun rfl⟩
  case work =>
    have healthy : (s.links.update (stationOf h) Link.healthy).fetch (stationOf h) = some l.healthy := by
      rw [Table.fetch_update_same]; exact congrArg (Option.map Link.healthy) heard.link
    refine ⟨(s.afterGood h.riser.val p idle).risers,
      (({ s with links := s.links.update (stationOf h) Link.healthy } : State).commandTaken (stationOf h) p h.taken).links,
      ?_, fun k hk other => ?_, fun k hk => ?_, fun regular none => ?_, fun c regular hc taken front => ?_,
      fun silent none => ?_⟩
    · rw [State.afterGood_eq]
      exact Quad.item_write _ h.riser.isLt _
    · rw [State.afterGood_eq]
      exact Quad.item_write_other _ h.riser.isLt hk other _
    · refine Eq.trans ?_ (Table.fetch_update_other s.links Link.healthy hk)
      unfold State.commandTaken
      split
      · split
        · exact Table.fetch_update_other _ _ hk
        · rfl
      · rfl
    · rw [State.afterReply, State.linkHealth_regular regular, State.commandTaken_none none, State.commandTaken_none none,
        State.afterGood_eq, ← Link.healthy_regular regular]
      exact ⟨rfl, healthy⟩
    · rw [State.afterReply, State.linkHealth_regular regular, State.commandTaken_some hc taken,
        State.commandTaken_some hc taken, State.afterGood_eq]
      refine ⟨rfl, (Table.fetch_update_same _ _ _).trans ?_⟩
      rw [healthy, Link.healthy_regular regular]
      exact congrArg some (Link.taken_eq front)
    · rw [State.afterReply, State.linkHealth_silent silent, State.commandTaken_none none, State.commandTaken_none none,
        State.afterGood_eq, ← Link.healthy_silent silent]
      exact ⟨rfl, healthy⟩

/-! ### HELLO, PAUSE and RESUME -/

section
variable {s : State} {h : ReplyHeader} {p : AwaitedPoll} {l : Link} {st : Nat} {x : Station}

/-- A station's capabilities as a HELLO carries them (R79). -/
def Station.refreshed (x : Station) (model caps sizes : Nat) : Station :=
  { x with model := model, colour := caps.testBit 0, duplex := caps.testBit 1, sizes := sizeSetOf sizes }

theorem State.route_hello (hx : s.stations.fetch st = some x) {model caps sizes : Nat} (valid : helloValid caps sizes = true) :
    s.route st (.hello model caps sizes) =
      ({ s with stations := s.stations.put st (x.refreshed model caps sizes) } : State).capabilitiesChanged st x
        (x.refreshed model caps sizes) := by
  simp only [State.route, hx, valid, if_true, State.refreshStation]
  rfl

theorem State.route_illFormed (hx : s.stations.fetch st = some x) {model caps sizes : Nat}
    (bad : helloValid caps sizes = false) : s.route st (.hello model caps sizes) = s := by
  simp [State.route, hx, bad]

theorem State.route_pause (hx : s.stations.fetch st = some x) : s.route st .pause = s.pauseStation st := by
  simp [State.route, hx]

theorem State.route_resume (hx : s.stations.fetch st = some x) : s.route st .resume =
    if x.paused then (s.updateStation st (fun x => { x with paused := false })).sendCheck st else s := by
  simp [State.route, State.resumeStation, hx]

theorem State.updateStation_fetch (hx : s.stations.fetch st = some x) (f : Station → Station) :
    (s.updateStation st f).stations.fetch st = some (f x) :=
  (Table.fetch_update_same s.stations _ _).trans (by rw [hx]; rfl)

end

/-- Settles O49: what each of the three events routes to. -/
theorem helloPauseAndResumeWriteTheStation : Obligations.HelloPauseAndResumeWriteTheStation := by
  intro s a h p l x heard ha hx
  subst ha
  refine ⟨fun model caps sizes x' h1 h2 h3 hx' => ?hello, fun model caps sizes bad => ?illFormed, fun new => ?paused⟩
  case hello =>
    obtain rfl : x' = x.refreshed model.toNat caps.toNat sizes.toNat := hx'
    have routed := (onReply_new heard (ev := .hello model.toNat caps.toNat sizes.toNat) LinkEvent.noConfusion rfl).trans
      (congrArg Host.Outcome.next (State.route_hello hx (helloValid_iff.2 ⟨h1, h2, h3⟩)))
    exact ⟨_, routed, Table.fetch_put_same _ _ _, fun k hk => Table.fetch_put_other _ _ hk,
      fun same kept => routed.trans (congrArg Host.Outcome.next (State.capabilitiesChanged_none same kept))⟩
  case illFormed =>
    have invalid : helloValid caps.toNat sizes.toNat = false := by
      rw [Bool.eq_false_iff, ne_eq, helloValid_iff]
      omega
    exact (onReply_new heard (ev := .hello model.toNat caps.toNat sizes.toNat) LinkEvent.noConfusion rfl).trans
      (congrArg Host.Outcome.next (State.route_illFormed hx invalid))
  case paused =>
    have pause := onReply_new heard (ev := .pause) LinkEvent.noConfusion (by simpa [LinkEvent.isNew] using new)
    have resume := onReply_new heard (ev := .resume) LinkEvent.noConfusion (by simpa [LinkEvent.isNew] using new)
    rw [State.route_pause hx] at pause
    rw [State.route_resume hx] at resume
    refine ⟨⟨_, pause, State.updateStation_fetch hx _, fun k hk => Table.fetch_update_other _ _ hk⟩,
      fun running => ?_, fun paused => ?_⟩
    · rw [if_neg (by simp [running])] at resume
      exact resume
    · rw [if_pos paused] at resume
      exact ⟨_, resume, State.updateStation_fetch hx _, fun k hk => Table.fetch_update_other _ _ hk⟩

end Sys2Proof.Machine
end

section
/-! JOB START and JOB PROGRESS (O50), and the reports that match no job. -/

namespace Sys2Proof.Machine

/-! ### Matching -/

section
variable {s : State} {st token : Nat} {j : Job} {c : Charging} {x : Station}

theorem State.Matched.report (m : s.Matched st token j c x) : s.matchReport st token = some (j, c) := by
  have sent : x.hasSentEntry j.handle = true := Station.hasSentEntry_iff.2 m.sent
  simp [State.matchReport, m.job, m.station, m.released, m.generation, m.here, sent]

/-- The reasons for which a report matches no job (R96). -/
def State.Unmatched (s : State) (st token : Nat) : Prop :=
  s.jobs.fetch (token / 64) = none ∨ s.generation (token / 64) % 64 ≠ token % 64 ∨
    (∃ j c, s.jobs.fetch (token / 64) = some j ∧ j.charging = some c ∧ c.station ≠ st) ∨
    (∃ j x, s.jobs.fetch (token / 64) = some j ∧ s.stations.fetch st = some x ∧
      ∀ e ∈ x.queue, e.handle = j.handle → e.sub = .waiting)

theorem State.Unmatched.report (h : s.Unmatched st token) : s.matchReport st token = none := by
  unfold State.matchReport
  split
  · rename_i j x hj hx
    split
    · rename_i c hc
      rw [if_neg]
      simp only [Bool.and_eq_true, decide_eq_true_eq, Station.hasSentEntry_iff]
      rintro ⟨⟨generation, here⟩, e, he, same, sent⟩
      rcases h with free | other | ⟨j', c', hj', hc', elsewhere⟩ | ⟨j', x', hj', hx', waiting⟩
      · rw [free] at hj; cases hj
      · exact other generation
      · rw [hj] at hj'
        cases hj'
        rw [hc] at hc'
        cases hc'
        exact elsewhere here
      · rw [hj] at hj'
        cases hj'
        rw [hx] at hx'
        cases hx'
        rw [waiting e he same] at sent
        cases sent
    · rfl
  · rfl

/-- A report at a place without a station matches no job. -/
theorem State.matchReport_place (h : s.stations.fetch st = none) (token : Nat) : s.matchReport st token = none := by
  unfold State.matchReport
  rw [h]
  split
  · rename_i hx; cases hx
  · rfl

theorem State.route_jobStart (s : State) (st token : Nat) : s.route st (.jobStart token) = s.reportStart st token := by
  unfold State.route
  split
  · rename_i none
    rw [State.reportStart, State.matchReport_place none]
  · rfl

theorem State.route_jobProgress (s : State) (st token : Nat) (n : Counts) :
    s.route st (.jobProgress token n) = s.reportProgress st token n := by
  unfold State.route
  split
  · rename_i none
    rw [State.reportProgress, State.matchReport_place none]
  · rfl

theorem State.route_jobEnd (s : State) (st token : Nat) (n : Counts) :
    s.route st (.jobEnd token n) = s.reportEnd st token n none := by
  unfold State.route
  split
  · rename_i none
    rw [State.reportEnd, State.matchReport_place none]
  · rfl

theorem State.route_jobAbort (s : State) (st token : Nat) (n : Counts) (reason : Nat) :
    s.route st (.jobAbort token n reason) = s.reportEnd st token n (some (abortReasonOf reason)) := by
  unfold State.route
  split
  · rename_i none
    rw [State.reportEnd, State.matchReport_place none]
  · rfl

theorem State.reportStart_matched (m : s.Matched st token j c x) : s.reportStart st token = s.startJob st j := by
  rw [State.reportStart, m.report]

theorem State.reportProgress_matched (m : s.Matched st token j c x) (n : Counts) :
    s.reportProgress st token n = (s.startJob st j).updateJob j.handle (fun j => { j with progress := some n.clamped }) := by
  rw [State.reportProgress, m.report]

theorem State.startJob_queued (h : j.state = .queued) :
    s.startJob st j = (s.updateJob j.handle (fun j => { j with state := .printing })).updateEntry st j.handle
      (fun e => { e with startDeadline := none }) := by simp [State.startJob, h]

theorem State.startJob_printing (h : j.state = .printing) : s.startJob st j = s := by simp [State.startJob, h]

end

theorem Counts.clamped_eq (n : Counts) : n.clamped = ⟨min n.mono 1000000, min n.colour 1000000, min n.sheets 1000000⟩ := rfl

/-- Settles O50: the two reports of a job that matches, and the reports that match none. -/
theorem startAndProgressFollowTheJob : Obligations.StartAndProgressFollowTheJob := by
  intro s a h token im ic hs p l heard new ha
  subst ha
  have start := onReply_new heard (ev := .jobStart token.toNat) LinkEvent.noConfusion (by simpa [LinkEvent.isNew] using new)
  have progress := onReply_new heard (ev := .jobProgress token.toNat ⟨im.toNat, ic.toNat, hs.toNat⟩) LinkEvent.noConfusion
    (by simpa [LinkEvent.isNew] using new)
  have ended := onReply_new heard (ev := .jobEnd token.toNat ⟨im.toNat, ic.toNat, hs.toNat⟩) LinkEvent.noConfusion
    (by simpa [LinkEvent.isNew] using new)
  have aborted (reason : Byte) := onReply_new heard
    (ev := .jobAbort token.toNat ⟨im.toNat, ic.toNat, hs.toNat⟩ reason.toNat) LinkEvent.noConfusion
    (by simpa [LinkEvent.isNew] using new)
  rw [State.route_jobStart] at start
  rw [State.route_jobProgress] at progress
  rw [State.route_jobEnd] at ended
  simp only [State.route_jobAbort] at aborted
  generalize s.acceptEvent h p l = a at *
  refine ⟨fun j c x m => ⟨fun queued => ?queued, fun printing => ?printing⟩, fun unmatched => ?unmatched⟩
  case queued =>
    rw [State.reportStart_matched m, State.startJob_queued queued] at start
    rw [State.reportProgress_matched m, State.startJob_queued queued, Counts.clamped_eq] at progress
    have first := (Table.fetch_update_same a.jobs (token.toNat / 64) (fun j => { j with state := .printing })).trans
      (congrArg _ m.job)
    rw [← m.slot] at first ⊢
    refine ⟨_, _, _, start, progress, first, (Table.fetch_update_same _ _ _).trans (congrArg _ first), fun k hk => ⟨?_, ?_⟩,
      State.mapQueue_fetch m.station _, fun k hk => Table.fetch_update_other _ _ hk⟩
    · exact Table.fetch_update_other _ _ hk
    · exact (Table.fetch_update_other _ _ hk).trans (Table.fetch_update_other _ _ hk)
  case printing =>
    rw [State.reportStart_matched m, State.startJob_printing printing] at start
    rw [State.reportProgress_matched m, State.startJob_printing printing, Counts.clamped_eq] at progress
    have job := m.job
    rw [← m.slot] at job ⊢
    exact ⟨start, _, progress, (Table.fetch_update_same _ _ _).trans (congrArg _ job),
      fun k hk => Table.fetch_update_other _ _ hk⟩
  case unmatched =>
    have none : a.matchReport (stationOf h) token.toNat = none := State.Unmatched.report unmatched
    simp only [State.reportStart, State.reportProgress, State.reportEnd, none] at start progress ended aborted
    exact ⟨start, progress, ended, aborted⟩

end Sys2Proof.Machine
end

section
/-! The end of a job (O51): its settlement, its counts and its impressions. -/

namespace Sys2Proof.Machine

/-! ### The settlement of an account -/

/-- An account after its settlement, before the checks (R33, R34). -/
theorem Account.settled_eq (a : Account) (reservation charge : Nat) :
    a.settled reservation charge = { a with
      used := min (a.used + charge) 2000000000
      reserved := a.reserved - reservation
      saturated := a.saturated || decide (2000000000 < a.used + charge) } := by
  have limit : Config.maxAccount = 2000000000 := rfl
  rw [Account.settled, Account.charge, limit]
  dsimp only []
  split
  case isTrue above => rw [decide_eq_true above, Bool.or_true, Nat.min_eq_right (Nat.le_of_lt above)]
  case isFalse within => rw [decide_eq_false within, Bool.or_false, Nat.min_eq_left (Nat.not_lt.1 within)]

theorem Terms.checkNotices_eq (q : Terms) (k : AccountKind) (n prior : Nat) (a : Account) :
    q.checkNotices k n prior a =
      (if q.mode = .limited ∧ a.warned = false ∧ prior < q.warnLevel ∧ q.warnLevel ≤ a.used then
        [.quotaWarn k n a.used q.warnLevel] else []) ++
      (if q.mode = .limited ∧ a.stopped = false ∧ q.allowance + q.grace ≤ a.used then
        [.quotaStop k n a.used (q.allowance + q.grace)] else []) := by
  simp only [Terms.checkNotices, Terms.warns, Terms.stops, Bool.and_eq_true, decide_eq_true_eq, Bool.not_eq_true', and_assoc]

theorem State.settleUser_eq {s : State} {n : Nat} {u : User} (hu : s.users.fetch n = some u) (reservation charge : Nat) :
    s.settleUser n reservation charge =
      s.checkUser n u.account.used u (u.account.settled reservation charge) := by simp [State.settleUser, hu]

theorem State.settleTenant_eq {s : State} {n : Nat} {t : Tenant} (ht : s.tenants.fetch n = some t) (reservation charge : Nat) :
    s.settleTenant n reservation charge =
      s.checkTenant n t.account.used t (t.account.settled reservation charge) := by simp [State.settleTenant, ht]

/-! ### The counts of a job -/

/-- The consumable records after a settlement's impressions: all of them to K, the colour ones to the others (R130). -/
def Table.gained (t : Table Consumable) (st : Nat) (n : Counts) : Table Consumable :=
  [Toner.c, .m, .y].foldl (fun t col => t.update (consumableKey st col) (fun r => r.gain n.colour))
    (t.update (consumableKey st .k) (fun r => r.gain (n.mono + n.colour)))

theorem Table.gained_fetch (t : Table Consumable) (st : Nat) (n : Counts) (col : Toner) :
    (t.gained st n).fetch (st * 4 + tonerCode col) =
      (t.fetch (st * 4 + tonerCode col)).map (fun r => r.gain (if col = .k then n.mono + n.colour else n.colour)) := by
  cases col <;>
    simp [Table.gained, Table.fetch_update_map, consumableKey, tonerCode, Function.comp_def]

/-! ### The impressions -/

theorem Counter.countsImpressions_iff {c : Counter} :
    c.countsImpressions = true ↔ c.source = .impressions ∧ c.preload ≠ 0 := by simp [Counter.countsImpressions]

theorem Counter.countsImpressions_not {c : Counter} (h : c.source = .minutes ∨ c.preload = 0) :
    c.countsImpressions = false := by
  rcases h with h | h <;> simp [Counter.countsImpressions, h]

theorem State.takeImpressions_none {s : State} (h : ∀ k, k < 4 → (s.counters.item k).countsImpressions = false)
    (units : Nat) : s.takeImpressions units = s := by
  have none : [0, 1, 2, 3].filter (fun n => (s.counters.item n).countsImpressions) = [] := by
    simp [h]
  rw [State.takeImpressions, none]
  rfl

/-- A free order of one item is that item. -/
theorem State.freeOrder_singleton {α : Type} (s : State) (a : α) : s.freeOrder [a] = [a] :=
  List.perm_singleton.1 (State.freeOrder_perm s [a])

theorem State.takeImpressions_one {s : State} {k : Nat} (hk : k < 4) (runs : (s.counters.item k).countsImpressions = true)
    (others : ∀ m, m < 4 → m ≠ k → (s.counters.item m).countsImpressions = false) {units : Nat}
    (h : units < (s.counters.item k).count) :
    s.takeImpressions units = (s.countChoices 1).setCount k ((s.counters.item k).count - units) := by
  have one : [0, 1, 2, 3].filter (fun n => (s.counters.item n).countsImpressions) = [k] := by
    have only : [0, 1, 2, 3].filter (fun n => (s.counters.item n).countsImpressions) = [0, 1, 2, 3].filter (· = k) := by
      refine List.filter_congr fun n hn => ?_
      have small : n < 4 := by simp at hn; omega
      by_cases he : n = k
      · rw [he, runs]; simp
      · rw [others n small he]; simp [he]
    rw [only]
    match k, hk with
    | 0, _ | 1, _ | 2, _ | 3, _ => rfl
  rw [State.takeImpressions, one]
  rw [State.freeOrder_singleton]
  exact if_pos h

/-! ### The reports -/

theorem abortReasonOf_eq (b : Byte) :
    abortReasonOf b.toNat = if b = 1#8 then .jam else if b = 2#8 then .door else if b = 3#8 then .paper
      else if b = 4#8 then .toner else if b = 5#8 then .service else if b = 6#8 then .panel
      else if b = 7#8 then .withdrawn else .other := by
  simp only [← BitVec.toNat_inj, BitVec.toNat_ofNat, Nat.reducePow, Nat.reduceMod]
  generalize b.toNat = n
  match n with
  | 0 | 1 | 2 | 3 | 4 | 5 | 6 | 7 => rfl
  | n + 8 => simp [abortReasonOf]

theorem State.reportEnd_matched {s : State} {st token : Nat} {j : Job} {c : Charging} {x : Station}
    (m : s.Matched st token j c x) (n : Counts) (aborted : Option AbortReason) :
    s.reportEnd st token n aborted = s.endJob st j c n
      (fun charge n => .jobDone j.handle j.owner j.spoolRef st charge n aborted c.fallback) := by
  rw [State.reportEnd, m.report]

/-- Settles O51: the reports' routes, the steps of the end, the two settlements, and the counters' units. -/
theorem endAndAbortSettleTheJob : Obligations.EndAndAbortSettleTheJob := by
  refine ⟨?reports, ?steps, ?user, ?tenant, fun s b c => ⟨rfl, rfl, rfl⟩, fun s st n x hx => ⟨State.updateStation_fetch hx _,
    Table.gained_fetch s.consumables st n⟩, fun s units => ⟨fun stopped => ?_, fun k hk source preload stopped room => ?_⟩⟩
  case reports =>
    intro s a h token im ic hs reason p l j c x r heard new ha m hr
    subst ha
    have ended := onReply_new heard (ev := .jobEnd token.toNat ⟨im.toNat, ic.toNat, hs.toNat⟩) LinkEvent.noConfusion
      (by simpa [LinkEvent.isNew] using new)
    have aborted := onReply_new heard (ev := .jobAbort token.toNat ⟨im.toNat, ic.toNat, hs.toNat⟩ reason.toNat)
      LinkEvent.noConfusion (by simpa [LinkEvent.isNew] using new)
    rw [State.route_jobEnd, State.reportEnd_matched m] at ended
    rw [State.route_jobAbort, State.reportEnd_matched m, abortReasonOf_eq, ← hr] at aborted
    exact ⟨ended, aborted⟩
  case steps =>
    intro s b st charge j c raw n notice hn hc hb
    subst hn hc hb
    rfl
  case user =>
    intro s n reservation charge used w u hu hused hw
    subst hused hw
    rw [State.settleUser_eq hu, State.checkUser, Account.settled_eq, Terms.checkNotices_eq]
    refine ⟨_, rfl, fun k hk => Table.fetch_update_other s.users _ hk, (Table.fetch_update_same s.users _ _).trans ?_⟩
    rw [hu, Terms.checked_eq, or_and_not_and, or_and_not]
    rfl
  case tenant =>
    intro s n reservation charge used w t ht hused hw
    subst hused hw
    rw [State.settleTenant_eq ht, State.checkTenant, Account.settled_eq, Terms.checkNotices_eq]
    refine ⟨_, rfl, fun k hk => Table.fetch_update_other s.tenants _ hk, (Table.fetch_update_same s.tenants _ _).trans ?_⟩
    rw [ht, Terms.checked_eq, or_and_not_and, or_and_not]
    rfl
  · exact State.takeImpressions_none (fun k hk => Counter.countsImpressions_not (stopped k hk)) units
  · refine ⟨_, State.takeImpressions_one hk (Counter.countsImpressions_iff.2 ⟨source, preload⟩)
      (fun m hm other => Counter.countsImpressions_not (stopped m hm other)) room, Quad.item_write _ hk _,
      fun m hm other => Quad.item_write_other _ hk hm other _⟩

end Sys2Proof.Machine
end

section
/-! PROOF. Level reports (R123, R131, R132), the evaluation of the consumables (R134, R135), the creation of a reorder
(R136, R137), and the suppression it gives (R154). -/

namespace Sys2Proof.Machine

/-! ### One level -/

/-- A consumable whose new level is known, but for the reorder that an install has received (R131, R132). -/
def Consumable.reported (r : Consumable) (new : Nat) : Consumable :=
  match r.level with
  | none => { r with level := some new, sinceChange := 0 }
  | some old =>
    if new < old then r.dropTo old new
    else if old + 40 ≤ new then { r with level := some new, sinceChange := 0 }
    else { r with level := some new }

section
variable {s : State} {st : Nat} {col : Toner} {r : Consumable}

theorem State.takeLevel_unknown (hr : s.consumables.fetch (consumableKey st col) = some r) :
    State.takeLevel st s (col, none) = s := by simp [State.takeLevel, hr]

theorem State.takeLevel_reported (hr : s.consumables.fetch (consumableKey st col) = some r) (new : Nat)
    (h : ∀ old, r.level = some old → old + 40 ≤ new → r.reorder = none) :
    State.takeLevel st s (col, some new) = s.putConsumable st col (r.reported new) := by
  unfold State.takeLevel Consumable.reported
  simp only [hr]
  cases hl : r.level with
  | none => rfl
  | some old =>
    by_cases drop : new < old
    · simp only [drop, if_true]
    · by_cases rise : old + 40 ≤ new
      · simp only [drop, rise, if_true, if_false, State.install, h old hl rise]
      · simp only [drop, rise, if_false]

theorem State.takeLevel_received {old new n : Nat} {o : Reorder}
    (hr : s.consumables.fetch (consumableKey st col) = some r) (hl : r.level = some old) (rise : old + 40 ≤ new)
    (hn : r.reorder = some n) (ho : s.reorderAt n = some o) (hst : o.station = st) (hcol : o.colour = col) :
    State.takeLevel st s (col, some new) = ({ s with
        consumables := (s.consumables.put (consumableKey st col) { r with level := some new, sinceChange := 0 }).update
          (consumableKey st col) (fun r => { r with reorder := none })
        reorders := s.reorders.filter (fun z => z.number ≠ n) } : State).notify
      (.reorderReceived n st col o.tenant o.state) := by
  have drop : ¬ new < old := by omega
  have number := State.reorderAt_number ho
  subst hst hcol number
  simp only [State.takeLevel, hr, hl, drop, rise, if_true, if_false, State.install, hn, ho]
  rfl

end

/-! ### The evaluation -/

theorem Consumable.forecast_none {r : Consumable} (h : r.level = none) : r.forecast = 999 := by
  simp [Consumable.forecast, h]

theorem Consumable.forecast_some {r : Consumable} {v : Nat} (h : r.level = some v) :
    r.forecast = if r.yield = 0 ∨ r.rate = 0 then 999 else min (v * r.yield / r.rate) 999 := by
  simp [Consumable.forecast, h]

theorem Consumable.trigger_none {r : Consumable} {leadCover floorPercent : Nat}
    (h : r.level = none ∨ r.reorder ≠ none ∨ (leadCover < r.cover ∧ ∃ v, r.level = some v ∧ floorPercent < v)) :
    r.trigger leadCover floorPercent = none := by
  unfold Consumable.trigger
  rcases h with hl | ho | ⟨hc, v, hl, hv⟩
  · simp [hl]
  · cases r.level <;> simp [Option.isSome_iff_ne_none, ho]
  · simp [hl, Nat.not_le.2 hc, Nat.not_le.2 hv]

theorem Consumable.trigger_some {r : Consumable} {leadCover floorPercent v : Nat} (hl : r.level = some v)
    (ho : r.reorder = none) (h : r.cover ≤ leadCover ∨ v ≤ floorPercent) :
    r.trigger leadCover floorPercent = some (if r.cover ≤ leadCover then .cover else .floor, v) := by
  unfold Consumable.trigger
  by_cases cover : r.cover ≤ leadCover
  · simp [hl, ho, cover]
  · simp [hl, ho, cover, h.resolve_left cover]

section
variable {s : State} {st : Nat} {col : Toner} {r : Consumable} {x : Station} {t : Tenant}
  (hr : s.consumables.fetch (consumableKey st col) = some r) (hx : s.stations.fetch st = some x)
  (ht : s.tenants.fetch x.owner = some t)
include hr hx ht

theorem State.evaluate_idle
    (h : x.state = .probation ∨ s.reorders.length ≥ Config.reorderCapacity ∨
      ({ r with cover := r.forecast } : Consumable).trigger t.leadCover t.floorPercent = none) :
    State.evaluate st s col = s.putConsumable st col { r with cover := r.forecast } := by
  simp only [State.evaluate, hr, hx, State.tenantOf_eq ht]
  rcases h with hp | full | quiet
  · exact if_pos hp
  · split
    · rfl
    · split
      · exact if_neg (Nat.not_lt.2 full)
      · rfl
  · simp [quiet]

theorem State.evaluate_triggered {cause : ReorderCause} {v : Nat} (hp : x.state ≠ .probation)
    (room : s.reorders.length < Config.reorderCapacity)
    (h : ({ r with cover := r.forecast } : Consumable).trigger t.leadCover t.floorPercent = some (cause, v)) :
    State.evaluate st s col =
      (s.putConsumable st col { r with cover := r.forecast }).createReorder st col x.owner cause v r.forecast := by
  simp only [State.evaluate, hr, hx, State.tenantOf_eq ht, hp, h, room, if_true, if_false]

end

/-! ### The reorder -/

/-- A new reorder, counted while its tenant's allowance lasts (R136, R137). -/
theorem State.createReorder_eq {s : State} {t : Nat} {x : Tenant} (ht : s.tenants.fetch t = some x)
    (free : s.newReorderNumber = s.nextReorder) (st : Nat) (col : Toner) (cause : ReorderCause) (level cover : Nat) :
    let fits := x.hasSupplies
    let counted : Tenant := if fits then { x with suppliesUsed := countOne x.suppliesUsed } else x
    s.createReorder st col t cause level cover = (({ s with
        tenants := if fits then s.tenants.update t (fun x => { x with suppliesUsed := countOne x.suppliesUsed })
          else s.tenants
        consumables := s.consumables.update (consumableKey st col) (fun r => { r with reorder := some s.nextReorder })
        nextReorder := nextNumber s.nextReorder
        reorders := s.reorders ++
          [{ number := s.nextReorder, station := st, colour := col, tenant := t
             state := if fits then .proposed else .deferred
             created := s.clock, cause := cause, level := level, cover := cover
             due := none, overdue := false }] } : State).notify
      (if fits then
        .reorderProposed s.nextReorder st col t cause level cover counted.suppliesUsed x.suppliesAllowance false false
      else .reorderDeferred s.nextReorder st col t cause level cover x.suppliesUsed x.suppliesAllowance)).reorderOpened
        st col := by
  intro fits counted
  have standing : (s.tenants.update t (fun x => { x with suppliesUsed := countOne x.suppliesUsed })).fetch t =
      some { x with suppliesUsed := countOne x.suppliesUsed } := by rw [Table.fetch_update_same, ht]; rfl
  unfold State.createReorder
  simp only [free, State.tenantOf_eq ht]
  cases hf : x.hasSupplies with
  | true =>
    simp [fits, counted, hf, State.proposedNotice, State.tenantOf, State.setSuppliesUsed, State.setOpenReorder, standing]
  | false =>
    simp [fits, hf, State.tenantOf, State.setOpenReorder, ht]

/-! ### The suppression -/

theorem State.covered_iff {s : State} {st : Nat} {z : Toner} :
    s.covered st z = true ↔ ∃ r ∈ s.reorders, r.station = st ∧ r.colour = z ∧ r.overdue = false := by
  simp [State.covered, and_assoc]

section
variable {s : State} {st : Nat} {col : Toner}

theorem State.reorderOpened_suppresses {f : FaultEntry} {d : Option Nat} (hf : s.faultAt st .toner = some f)
    (hd : f.link = .waiting d) (holds : f.colours.contains col = true)
    (all : ∀ z, f.colours.contains z = true → s.covered st z = true) :
    s.reorderOpened st col = s.setLink st .toner .suppressed := by
  simp [State.reorderOpened, hf, hd, holds, State.allCovered_iff.2 all]

theorem State.reorderOpened_idle
    (h : ∀ f d, s.faultAt st .toner = some f → f.link = .waiting d →
      f.colours.contains col = false ∨ ∃ z, f.colours.contains z = true ∧ s.covered st z = false) :
    s.reorderOpened st col = s := by
  unfold State.reorderOpened
  cases hf : s.faultAt st .toner with
  | none => rfl
  | some f =>
    simp only []
    cases hl : f.link with
    | waiting d =>
      refine if_neg fun both => ?_
      obtain ⟨holds, all⟩ := Bool.and_eq_true _ _ ▸ both
      rcases h f d hf hl with lacks | ⟨z, hz, bare⟩
      · rw [holds] at lacks; exact Bool.noConfusion lacks
      · rw [State.allCovered_iff.1 all z hz] at bare; exact Bool.noConfusion bare
    | suppressed | called _ | pending _ => rfl

end

theorem State.route_levels {s : State} {st : Nat} {x : Station} (hx : s.stations.fetch st = some x) (k c m y : Nat) :
    s.route st (.levels k c m y) = ((passedLevels x k c m y).foldl (State.takeLevel st) s).evaluateStation st := by
  simp only [State.route, hx]
  rfl

/-- Settles O52: one level, the evaluation, the new reorder and the suppression, each by its cases. -/
theorem levelsLearnTheYield : Obligations.LevelsLearnTheYield := by
  refine ⟨?levels, ?one, ?evaluation, fun s st => rfl, ?creation, fun s st col =>
    ⟨fun z => State.covered_iff, fun f d hf hd holds all => ?_, fun quiet => State.reorderOpened_idle quiet⟩⟩
  case levels =>
    intro s a h k c m y p l x known heard new ha hx hknown
    subst ha
    have routed := onReply_new heard (ev := .levels k.toNat c.toNat m.toNat y.toNat) LinkEvent.noConfusion
      (by simpa [LinkEvent.isNew] using new)
    have passed (b : Byte) : levelOf b.toNat = known b := (hknown b).symm
    rw [State.route_levels hx, passedLevels, passed, passed, passed, passed] at routed
    refine routed.trans ?_
    cases x.colour <;> rfl
  case one =>
    intro s st new col r hr
    refine ⟨State.takeLevel_unknown hr, ?_⟩
    by_cases received : ∃ old n, r.level = some old ∧ old + 40 ≤ new ∧ r.reorder = some n
    · obtain ⟨old, n, hl, rise, hn⟩ := received
      refine ⟨(s.consumables.put (consumableKey st col) { r with level := some new, sinceChange := 0 }).update
          (consumableKey st col) (fun r => { r with reorder := none }), _,
        (Table.fetch_update_same _ _ _).trans (by rw [Table.fetch_put_same]; rfl),
        fun k hk => (Table.fetch_update_other _ _ hk).trans (Table.fetch_put_other _ _ hk), ?_, ?_, ?_, ?_, ?_, ?_⟩
      · intro unknown; rw [hl] at unknown; cases unknown
      · intro v hv _ near; rw [hl] at hv; cases hv; omega
      · intro v hv drop; rw [hl] at hv; cases hv; omega
      · intro v _ hv drop; rw [hl] at hv; cases hv; omega
      · intro v _ _ none; rw [hn] at none; cases none
      · intro v m o hv far hm ho hst hcol
        exact ⟨State.takeLevel_received hr hv far hm ho hst hcol, rfl⟩
    · have quiet (old : Nat) (hl : r.level = some old) (rise : old + 40 ≤ new) : r.reorder = none :=
        Option.eq_none_iff_forall_ne_some.2 fun n hn => received ⟨old, n, hl, rise, hn⟩
      have taken := State.takeLevel_reported hr new quiet
      refine ⟨s.consumables.put (consumableKey st col) (r.reported new), _, Table.fetch_put_same _ _ _,
        fun k hk => Table.fetch_put_other _ _ hk, ?_, ?_, ?_, ?_, ?_, ?_⟩
      · intro hl; exact ⟨taken, by simp [Consumable.reported, hl]⟩
      · intro old hl up near
        exact ⟨taken, by simp [Consumable.reported, hl, Nat.not_lt.2 up, Nat.not_le.2 near]⟩
      · intro old hl drop zero; exact ⟨taken, by simp [Consumable.reported, hl, drop, Consumable.dropTo, zero]⟩
      · intro old observed hl drop some ho
        exact ⟨taken, by simp [Consumable.reported, hl, drop, Consumable.dropTo, some, ho]⟩
      · intro old hl rise _
        have up : ¬ new < old := by omega
        exact ⟨taken, by simp [Consumable.reported, hl, up, rise]⟩
      · intro old n o hl rise hn; rw [quiet old hl rise] at hn; cases hn
  case evaluation =>
    intro s st cover col r x t hr hx ht unknown hknown
    have forecast : r.forecast = cover := by
      cases hl : r.level with
      | none => rw [Consumable.forecast_none hl, unknown hl]
      | some v => rw [Consumable.forecast_some hl, hknown v hl]
    subst forecast
    refine ⟨s.consumables.put (consumableKey st col) { r with cover := r.forecast }, Table.fetch_put_same _ _ _,
      fun k hk => Table.fetch_put_other _ _ hk, fun quiet => ?_, fun v hp hl ho room low => ?_⟩
    · refine State.evaluate_idle hr hx ht ?_
      rcases quiet with hp | hl | ho | full | high
      · exact .inl hp
      · exact .inr (.inr (Consumable.trigger_none (.inl hl)))
      · exact .inr (.inr (Consumable.trigger_none (.inr (.inl ho))))
      · exact .inr (.inl full)
      · exact .inr (.inr (Consumable.trigger_none (.inr (.inr high))))
    · exact State.evaluate_triggered hr hx ht hp room (Consumable.trigger_some hl ho low)
  case creation =>
    intro s st t level cover used col cause x fits ht free hfits hused
    have number : s.newReorderNumber = s.nextReorder := freeNumber_free (by simpa using free) _
    have hf : fits = x.hasSupplies := Bool.eq_iff_iff.2 (hfits.trans Tenant.hasSupplies_iff.symm)
    refine ⟨if x.hasSupplies then s.tenants.update t (fun x => { x with suppliesUsed := countOne x.suppliesUsed })
        else s.tenants, _, ?_, ?_, ?_, Table.fetch_update_same s.consumables _ _,
      fun k hk => Table.fetch_update_other s.consumables _ hk⟩
    · rw [State.createReorder_eq ht number, ← hf, hused]
      cases fits <;> rfl
    · cases fits with
      | true => simp only [← hf, if_true, Table.fetch_update_same, ht, hused]; rfl
      | false => simpa [← hf, hused] using ht
    · intro k hk
      cases fits with
      | true => simpa [← hf] using Table.fetch_update_other s.tenants _ hk
      | false => simp [← hf]
  · exact ⟨_, State.reorderOpened_suppresses hf hd holds all, (Table.fetch_update_same s.faults _ _).trans (by
      rw [show s.faults.fetch (faultKey st .toner) = some f from hf]; rfl),
      fun k hk => Table.fetch_update_other s.faults _ hk⟩

end Sys2Proof.Machine
end

section
/-! PROOF. Faults set and cleared (R149 to R152), the callouts that they make fall due (R151, R156, R161), and the
station's derived state (R72, R73). -/

namespace Sys2Proof.Machine

/-! ### Sets of colours -/

theorem ColourSet.isEmpty_iff {x : ColourSet} : x.isEmpty = true ↔ x = ⟨false, false, false, false⟩ := by
  obtain ⟨k, c, m, y⟩ := x
  simp [ColourSet.isEmpty, and_assoc]

theorem ColourSet.contains_minus (x y : ColourSet) (col : Toner) :
    (x.minus y).contains col = (x.contains col && !y.contains col) := by cases col <;> rfl

theorem ColourSet.contains_union (x y : ColourSet) (col : Toner) :
    (x.union y).contains col = (x.contains col || y.contains col) := by cases col <;> rfl

theorem ColourSet.eq_of_contains {x y : ColourSet} (h : ∀ col, x.contains col = y.contains col) : x = y := by
  obtain ⟨k, c, m, y⟩ := x
  have hk := h .k
  have hc := h .c
  have hm := h .m
  have hy := h .y
  simp_all [ColourSet.contains]

theorem ColourSet.isEmpty_iff_contains {x : ColourSet} : x.isEmpty = true ↔ ∀ col, x.contains col = false :=
  ColourSet.isEmpty_iff.trans ⟨fun h col => by subst h; cases col <;> rfl,
    fun h => ColourSet.eq_of_contains fun col => by rw [h col]; cases col <;> rfl⟩

/-! ### A callout falls due -/

theorem State.calloutColours_eq {s : State} {st : Nat} {c : FaultClass} {f : FaultEntry} (hf : s.faultAt st c = some f) :
    s.calloutColours st c = if c = .toner then some f.colours else none := by
  cases c <;> simp [State.calloutColours, hf]

theorem State.sinceOf_eq {s : State} {st : Nat} {c : FaultClass} {f : FaultEntry} (hf : s.faultAt st c = some f) :
    s.sinceOf st c = f.since := by simp [State.sinceOf, hf]

section
variable {s : State} {st : Nat} {c : FaultClass} {f : FaultEntry} (hf : s.faultAt st c = some f)
include hf

theorem State.fallDue_recurs {n : Nat} {x : Callout} (hx : s.calloutFor st c = some (n, x)) :
    s.fallDue st c = ({ s with
        faults := s.faults.update (faultKey st c) (fun f => { f with link := .called n })
        callouts := s.callouts.put n (x.recurs (s.minuteAfter (s.policy.timeout x.tier))) } : State).notify
      (.calloutOpen n st (s.floorOf st) c (if c = .toner then some f.colours else none) x.tier
        (min (x.recurrence + 1) 255) true f.since) := by
  have stands := List.find?_some hx
  simp only [Bool.and_eq_true, decide_eq_true_eq] at stands
  obtain ⟨station, cls⟩ := stands
  subst station cls
  rw [← State.calloutColours_eq hf, ← State.sinceOf_eq hf]
  simp only [State.fallDue, hx]
  rfl

theorem State.fallDue_opens (lone : s.calloutFor st c = none) (room : s.callouts.length < Config.calloutCapacity)
    (free : s.callouts.has s.nextCallout = false) :
    s.fallDue st c = ({ s with
        faults := s.faults.update (faultKey st c) (fun f => { f with link := .called s.nextCallout })
        callouts := s.callouts.put s.nextCallout (s.newCallout st c)
        nextCallout := nextNumber s.nextCallout } : State).notify
      (.calloutOpen s.nextCallout st (s.floorOf st) c (if c = .toner then some f.colours else none) 1 0 false
        f.since) := by
  have number : s.newCalloutNumber = s.nextCallout :=
    freeNumber_free (fun h => by rw [Table.has_iff.2 h] at free; exact Bool.noConfusion free) _
  rw [← State.calloutColours_eq hf, ← State.sinceOf_eq hf]
  simp only [State.fallDue, lone, room, if_true, State.openCallout, number]
  rfl

omit hf in
theorem State.fallDue_pends (lone : s.calloutFor st c = none) (full : Config.calloutCapacity ≤ s.callouts.length) :
    s.fallDue st c = { s with
      faults := s.faults.update (faultKey st c) (fun f => { f with link := .pending s.clock })
      pendingFaults := s.pendingFaults ++ [(st, c)] } := by
  simp only [State.fallDue, lone, Nat.not_lt.2 full, if_false]
  rfl

end

/-! ### The derived state -/

theorem State.derivedState_eq (s : State) (st : Nat) :
    s.derivedState st = if (s.activeFaults st).any (fun f => f.cls ≠ .toner || f.colours.k) = true then .outOfService
      else if (s.activeFaults st).any (fun f => f.cls = .toner) = true then .degraded else .inService := by
  have blocking : FaultEntry.blocking = fun f => decide (f.cls ≠ .toner) || f.colours.k :=
    funext fun f => Bool.eq_iff_iff.2 (by simp [FaultEntry.blocking_iff])
  rw [State.derivedState, blocking]

section
variable {s : State} {st : Nat} {x : Station} (hx : s.stations.fetch st = some x)
include hx

theorem State.faultsChanged_set (h : x.state = .probation ∨ x.state = .parked) : s.faultsChanged st = s := by
  unfold State.faultsChanged
  rcases h with h | h <;> simp [hx, h]

theorem State.faultsChanged_derived (probation : x.state ≠ .probation) (parked : x.state ≠ .parked) :
    s.faultsChanged st =
      (if s.derivedState st = x.state then s
       else (s.updateStation st (fun x => { x with state := s.derivedState st })).notify
          (.stationState st x.state (some (s.derivedState st)) (s.activeClasses st))).handOver st := by
  unfold State.faultsChanged
  simp only [hx]

end

/-! ### A fault is set -/

section
variable {s : State} {st : Nat} {c : FaultClass} {cs : ColourSet}

/-- The entry of a fault that is first reported now (R149). -/
def State.newFault (s : State) (st : Nat) (c : FaultClass) (cs : ColourSet) : FaultEntry :=
  { station := st, cls := c, colours := cs, since := s.clock, link := .waiting none }

/-- The state in which a new entry gets its link (R149). -/
def State.withFault (s : State) (st : Nat) (c : FaultClass) (cs : ColourSet) : State :=
  { s with faults := s.faults.put (faultKey st c) (s.newFault st c cs) }

theorem State.withFault_faultAt (s : State) (st : Nat) (c : FaultClass) (cs : ColourSet) :
    (s.withFault st c cs).faultAt st c = some (s.newFault st c cs) := Table.fetch_put_same _ _ _

theorem State.withFault_other (s : State) (st : Nat) (c : FaultClass) (cs : ColourSet) {k : Nat} (h : k ≠ faultKey st c) :
    (s.withFault st c cs).faults.fetch k = s.faults.fetch k := Table.fetch_put_other _ _ h

theorem State.setFault_absent {x : Station} (hx : s.stations.fetch st = some x) (absent : s.faultAt st c = none) :
    s.setFault st c cs =
      ((s.withFault st c cs).linkNewFault st c cs (decide (x.state = .probation))).faultsChanged st := by
  have probation : s.inProbation st = decide (x.state = .probation) := by simp [State.inProbation, hx]
  simp only [State.setFault, absent, State.createFault, probation]
  rfl

theorem State.linkNewFault_probation (s : State) (st : Nat) (c : FaultClass) (cs : ColourSet) :
    s.linkNewFault st c cs true = s.setLink st c (.waiting none) := if_pos rfl

theorem State.linkNewFault_suppressed (hc : c = .toner) (covered : s.allCovered st cs = true) :
    s.linkNewFault st c cs false = s.setLink st c .suppressed := by
  simp [State.linkNewFault, covered, hc]

section
variable (bare : ¬ (c = .toner ∧ s.allCovered st cs = true))
include bare

theorem State.linkNewFault_due (h : (s.calloutFor st c).isSome = true ∨ s.policy.delay c = 0) :
    s.linkNewFault st c cs false = s.fallDue st c := by
  unfold State.linkNewFault
  rw [if_neg Bool.false_ne_true, if_neg (by simpa using bare), if_pos (by simpa using h)]

theorem State.linkNewFault_waits (none : s.calloutFor st c = none) (delay : 0 < s.policy.delay c) :
    s.linkNewFault st c cs false = s.setLink st c (.waiting (some (s.minuteAfter (s.policy.delay c)))) := by
  unfold State.linkNewFault
  rw [if_neg Bool.false_ne_true, if_neg (by simpa using bare), if_neg (by simp [none]; omega)]

end

theorem State.not_covered (h : c = .toner → ∃ col, cs.contains col = true ∧ s.covered st col = false) :
    ¬ (c = .toner ∧ s.allCovered st cs = true) := by
  rintro ⟨hc, all⟩
  obtain ⟨col, holds, bare⟩ := h hc
  rw [State.allCovered_iff.1 all col holds] at bare
  exact Bool.noConfusion bare

variable {f : FaultEntry}

theorem State.setFault_repeated (hf : s.faultAt st c = some f)
    (h : c ≠ .toner ∨ ∀ col, cs.contains col = true → f.colours.contains col = true) : s.setFault st c cs = s := by
  simp only [State.setFault, hf]
  refine if_neg fun adds => ?_
  simp only [Bool.and_eq_true, decide_eq_true_eq, Bool.not_eq_true'] at adds
  obtain ⟨hc, some⟩ := adds
  have nothing : (cs.minus f.colours).isEmpty = true := ColourSet.isEmpty_iff_contains.2 fun col => by
    rw [ColourSet.contains_minus]
    cases holds : cs.contains col with
    | false => rfl
    | true => simp [h.resolve_left (not_not.2 hc) col holds]
  rw [nothing] at some
  exact Bool.noConfusion some

theorem State.setFault_added (hf : s.faultAt st .toner = some f)
    (h : ∃ col, cs.contains col = true ∧ f.colours.contains col = false) :
    s.setFault st .toner cs = s.addColours st f (cs.minus f.colours) := by
  obtain ⟨col, holds, new⟩ := h
  have some : (cs.minus f.colours).isEmpty = false := Bool.eq_false_iff.2 fun none => by
    have := ColourSet.isEmpty_iff_contains.1 none col
    simp [ColourSet.contains_minus, holds, new] at this
  simp [State.setFault, hf, some]

/-- The fault table after a repeat report adds colours (R150). -/
def State.coloursAdded (s : State) (st : Nat) (added : ColourSet) : State :=
  { s with faults := s.faults.update (faultKey st .toner) (fun f => { f with colours := f.colours.union added }) }

theorem State.addColours_kept {added : ColourSet} (h : f.link ≠ .suppressed ∨ s.allCovered st added = true) :
    s.addColours st f added = (s.coloursAdded st added).faultsChanged st := by
  unfold State.addColours
  simp only []
  cases hl : f.link with
  | suppressed => simp only [h.resolve_left (not_not.2 hl), if_true]; rfl
  | waiting _ | called _ | pending _ => rfl

theorem State.addColours_ends {added : ColourSet} (hl : f.link = .suppressed) (bare : s.allCovered st added = false) :
    s.addColours st f added = ((s.coloursAdded st added).fallDue st .toner).faultsChanged st := by
  unfold State.addColours
  simp only [hl, bare]
  rfl

/-! ### A fault is cleared -/

theorem State.clearFault_absent (absent : s.faultAt st c = none) : s.clearFault st c cs = s := by
  simp [State.clearFault, absent]

theorem State.clearFault_whole (hf : s.faultAt st c = some f)
    (h : c = .toner → (∃ col, f.colours.contains col = true) ∧
      ∀ col, f.colours.contains col = true → cs.contains col = true) :
    s.clearFault st c cs = (s.removeFault st c f).faultsChanged st := by
  unfold State.clearFault
  cases c with
  | toner =>
    obtain ⟨⟨col, holds⟩, all⟩ := h rfl
    have gone : (f.colours.minus cs).isEmpty = true := ColourSet.isEmpty_iff_contains.2 fun col => by
      rw [ColourSet.contains_minus]
      cases here : f.colours.contains col with
      | false => rfl
      | true => simp [all col here]
    have lost : f.colours.minus cs ≠ f.colours := fun same => by
      have := ColourSet.isEmpty_iff_contains.1 gone col
      rw [same, holds] at this
      exact Bool.noConfusion this
    simp [hf, gone, lost]
  | jam | door | paper | service | silent => simp only [hf]

theorem State.clearFault_nothing (hf : s.faultAt st .toner = some f)
    (h : ∀ col, f.colours.contains col = true → cs.contains col = false) : s.clearFault st .toner cs = s := by
  have same : f.colours.minus cs = f.colours := ColourSet.eq_of_contains fun col => by
    rw [ColourSet.contains_minus]
    cases here : f.colours.contains col with
    | false => rfl
    | true => simp [h col here]
  simp [State.clearFault, hf, same]

theorem State.clearFault_part (hf : s.faultAt st .toner = some f)
    (h : ∃ col, f.colours.contains col = true ∧ cs.contains col = true)
    (left : ∃ col, f.colours.contains col = true ∧ cs.contains col = false) :
    s.clearFault st .toner cs = (s.takeColours st f (f.colours.minus cs)).faultsChanged st := by
  obtain ⟨col, here, taken⟩ := h
  obtain ⟨z, held, stays⟩ := left
  have lost : f.colours.minus cs ≠ f.colours := fun same => by
    have := ColourSet.contains_minus f.colours cs col
    simp [same, here, taken] at this
  have some : (f.colours.minus cs).isEmpty = false := Bool.eq_false_iff.2 fun none => by
    have := ColourSet.isEmpty_iff_contains.1 none z
    simp [ColourSet.contains_minus, held, stays] at this
  simp [State.clearFault, hf, lost, some]

theorem State.resolveCallout_resolved {n : Nat} {q : Callout} (hq : s.callouts.fetch n = some q)
    (h : q.state = .resolved) : s.resolveCallout n = s := by simp [State.resolveCallout, hq, h]

theorem State.resolveCallout_resolves {n : Nat} {q : Callout} (hq : s.callouts.fetch n = some q)
    (h : q.state ≠ .resolved) :
    s.resolveCallout n = ({ s with callouts := s.callouts.put n { q with state := .resolved, deadline := none } } :
      State).notify (.calloutResolved n q.station (s.floorOf q.station) q.cls q.tier q.state) := by
  simp [State.resolveCallout, hq, h]

end

/-! ### The events -/

theorem adapterClass_code {c : FaultClass} (toner : c ≠ .toner) (silent : c ≠ .silent) :
    adapterClass (classCode c) = some c := by
  cases c with
  | toner => exact absurd rfl toner
  | silent => exact absurd rfl silent
  | jam | door | paper | service => rfl

theorem adapterClass_unknown {n : Nat} (h : n = 0 ∨ 6 ≤ n) : adapterClass n = none :=
  match n, h with
  | 0, _ => rfl
  | n + 6, _ => rfl
  | 1, h | 2, h | 3, h | 4, h | 5, h => by omega

theorem faultEvent_class {x : Station} {c : FaultClass} {cls colours : Nat} (toner : c ≠ .toner)
    (hc : adapterClass cls = some c) : faultEvent x cls colours = some (c, ⟨false, false, false, false⟩) := by
  unfold faultEvent
  rw [hc]
  cases c with
  | toner => exact absurd rfl toner
  | jam | door | paper | service | silent => rfl

theorem faultEvent_unknown {x : Station} {cls colours : Nat} (hc : adapterClass cls = none) :
    faultEvent x cls colours = none := by simp [faultEvent, hc]

/-- The colours of a TONER event that its station has (R123). -/
theorem passedColours (x : Station) (b : Byte) :
    (if x.colour then colourSetOf b.toNat else (colourSetOf b.toNat).minus ⟨false, true, true, true⟩) =
      ⟨b.getLsbD 0, b.getLsbD 1 && x.colour, b.getLsbD 2 && x.colour, b.getLsbD 3 && x.colour⟩ := by
  cases x.colour <;> simp [colourSetOf, ColourSet.minus, BitVec.getLsbD]

theorem faultEvent_toner (x : Station) (b : Byte) {cs : ColourSet}
    (hcs : cs = ⟨b.getLsbD 0, b.getLsbD 1 && x.colour, b.getLsbD 2 && x.colour, b.getLsbD 3 && x.colour⟩) :
    faultEvent x 4 b.toNat = if 16 ≤ b.toNat ∨ cs = ⟨false, false, false, false⟩ then none else some (.toner, cs) := by
  have holds : faultEvent x 4 b.toNat = if (16 ≤ b.toNat || cs.isEmpty) = true then none else some (.toner, cs) := by
    rw [hcs, ← passedColours x b]
    rfl
  simp only [holds, Bool.or_eq_true, decide_eq_true_eq, ColourSet.isEmpty_iff]

section
variable {s : State} {st cls colours : Nat} {x : Station} (hx : s.stations.fetch st = some x)
include hx

theorem State.route_fault {c : FaultClass} {cs : ColourSet} (h : faultEvent x cls colours = some (c, cs)) :
    s.route st (.faultSet cls colours) = s.setFault st c cs ∧
      s.route st (.faultClear cls colours) = s.clearFault st c cs := by
  simp [State.route, hx, h]

theorem State.route_noFault (h : faultEvent x cls colours = none) :
    s.route st (.faultSet cls colours) = s ∧ s.route st (.faultClear cls colours) = s := by
  simp [State.route, hx, h]

end

/-- Settles O53: the events' routes, a first report by what its link is, a repeat, a clear by what it leaves, and the
derived state. -/
theorem faultsAreSetAndCleared : Obligations.FaultsAreSetAndCleared := by
  refine ⟨?events, ?waits, ?other, ?repeated, ?part, ?whole, ?derived⟩
  case events =>
    intro s a h cls colours p l x heard new ha hx
    subst ha
    have set := onReply_new heard (ev := .faultSet cls.toNat colours.toNat) LinkEvent.noConfusion
      (by simpa [LinkEvent.isNew] using new)
    have clear := onReply_new heard (ev := .faultClear cls.toNat colours.toNat) LinkEvent.noConfusion
      (by simpa [LinkEvent.isNew] using new)
    have both {c : FaultClass} {cs : ColourSet} (passed : faultEvent x cls.toNat colours.toNat = some (c, cs)) :
        exec (.faultSet h cls colours) s = .next ((s.acceptEvent h p l).setFault (stationOf h) c cs) ∧
        exec (.faultClear h cls colours) s = .next ((s.acceptEvent h p l).clearFault (stationOf h) c cs) := by
      obtain ⟨routed, cleared⟩ := State.route_fault hx passed
      exact ⟨set.trans (congrArg _ routed), clear.trans (congrArg _ cleared)⟩
    have neither (dropped : faultEvent x cls.toNat colours.toNat = none) :
        exec (.faultSet h cls colours) s = .next (s.acceptEvent h p l) ∧
        exec (.faultClear h cls colours) s = .next (s.acceptEvent h p l) := by
      obtain ⟨routed, cleared⟩ := State.route_noFault hx dropped
      exact ⟨set.trans (congrArg _ routed), clear.trans (congrArg _ cleared)⟩
    refine ⟨fun c toner silent code => both (faultEvent_class toner (code ▸ adapterClass_code toner silent)),
      fun cs four low hcs => ?_, fun unknown => neither ?_⟩
    · have passed := faultEvent_toner x colours hcs
      subst four
      exact ⟨fun some => both (passed.trans (if_neg (by simp [some]; omega))),
        fun empty => neither (passed.trans (if_pos (.inr empty)))⟩
    · rcases unknown with zero | high | ⟨four, high⟩
      · exact faultEvent_unknown (adapterClass_unknown (.inl zero))
      · exact faultEvent_unknown (adapterClass_unknown (.inr high))
      · subst four
        exact (faultEvent_toner x colours rfl).trans (if_pos (.inl high))
  case waits =>
    intro s st c cs x hx probation absent bare lone
    have set := State.setFault_absent (c := c) (cs := cs) hx absent
    rw [decide_eq_false probation] at set
    have first := s.withFault_faultAt st c cs
    have floor : s.floorOf st = x.floor := by simp [State.floorOf, hx]
    have uncovered := State.not_covered bare
    refine ⟨fun delay => ⟨_, ?_, State.setLink_faultAt first (.waiting (some (s.minuteAfter (s.policy.delay c)))),
      fun k hk => (Table.fetch_update_other _ _ hk).trans (s.withFault_other st c cs hk)⟩,
      fun zero room free => ⟨_, _, ?_, State.setLink_faultAt first (.called s.nextCallout),
        fun k hk => (Table.fetch_update_other _ _ hk).trans (s.withFault_other st c cs hk),
        Table.fetch_put_same s.callouts s.nextCallout (s.newCallout st c),
        fun k hk => Table.fetch_put_other s.callouts (s.newCallout st c) hk⟩,
      fun zero full => ⟨_, ?_, State.setLink_faultAt first (.pending s.clock),
        fun k hk => (Table.fetch_update_other _ _ hk).trans (s.withFault_other st c cs hk)⟩⟩
    · rw [set, State.linkNewFault_waits (s := s.withFault st c cs) uncovered lone delay]; rfl
    · rw [set, State.linkNewFault_due (s := s.withFault st c cs) uncovered (.inr zero),
        State.fallDue_opens first lone room free, ← floor]
      rfl
    · rw [set, State.linkNewFault_due (s := s.withFault st c cs) uncovered (.inr zero),
        State.fallDue_pends (s := s.withFault st c cs) lone full]
      rfl
  case other =>
    intro s st c cs x f hx absent hf
    subst hf
    have set := State.setFault_absent (c := c) (cs := cs) hx absent
    have first := s.withFault_faultAt st c cs
    have others (k : Nat) (hk : k ≠ st * 8 + classCode c) := s.withFault_other st c cs hk
    by_cases probation : x.state = .probation
    · refine ⟨_, fun k hk => (Table.fetch_update_other _ _ hk).trans (others k hk), fun _ =>
        ⟨State.setLink_faultAt first (.waiting none), ?_⟩, fun not => absurd probation not,
        fun _ not => absurd probation not⟩
      rw [set, decide_eq_true probation, State.linkNewFault_probation]
      exact State.faultsChanged_set (s := (s.withFault st c cs).setLink st c (.waiting none)) hx (.inl probation)
    · rw [decide_eq_false probation] at set
      by_cases covered : c = .toner ∧ s.allCovered st cs = true
      · refine ⟨_, fun k hk => (Table.fetch_update_other _ _ hk).trans (others k hk), fun is => absurd is probation,
          fun _ hc _ => ⟨State.setLink_faultAt first .suppressed, ?_⟩, fun _ _ bare _ =>
            absurd covered (State.not_covered bare)⟩
        rw [set, State.linkNewFault_suppressed (s := s.withFault st c cs) hc covered.2]
        rfl
      · refine ⟨_, others, fun is => absurd is probation,
          fun _ hc all => absurd ⟨hc, State.allCovered_iff.2 all⟩ covered, fun p _ _ stands => ⟨first, ?_⟩⟩
        rw [set, State.linkNewFault_due (s := s.withFault st c cs) covered
          (.inl (Option.isSome_iff_exists.2 ⟨p, stands⟩))]
        rfl
  case repeated =>
    intro s st c cs f hf
    refine ⟨fun other => State.setFault_repeated hf (.inl other), fun _ all => State.setFault_repeated hf (.inr all),
      fun hc adds => ?_⟩
    subst hc
    have added : (s.coloursAdded st (cs.minus f.colours)).faultAt st .toner =
        some { f with colours := f.colours.union (cs.minus f.colours) } :=
      (Table.fetch_update_same s.faults _ _).trans (by rw [show s.faults.fetch (faultKey st .toner) = some f from hf]; rfl)
    rw [State.setFault_added hf adds]
    refine ⟨_, _, added, rfl, fun col => ?_, fun k hk => Table.fetch_update_other s.faults _ hk, fun kept => ?_,
      fun hl bare => ?_⟩
    · simp only [ColourSet.contains_union, ColourSet.contains_minus]
      cases f.colours.contains col <;> simp
    · refine (State.addColours_kept (kept.imp_right fun all => State.allCovered_iff.2 fun col h => ?_)).trans rfl
      simp only [ColourSet.contains_minus, Bool.and_eq_true, Bool.not_eq_true'] at h
      exact all col h.1 h.2
    · obtain ⟨col, holds, new, open_⟩ := bare
      refine (State.addColours_ends hl (Bool.eq_false_iff.2 fun all => ?_)).trans rfl
      have := State.allCovered_iff.1 all col (by simp [ColourSet.contains_minus, holds, new])
      rw [open_] at this
      exact Bool.noConfusion this
  case part =>
    intro s st cs f hf
    refine ⟨fun nothing => State.clearFault_nothing hf nothing, fun some left => ?_⟩
    refine ⟨_, _, State.clearFault_part hf some left, Table.fetch_put_same s.faults _ _, rfl,
      fun col => ColourSet.contains_minus _ _ col, fun d hl all => ?_, fun stays => ?_,
      fun k hk => Table.fetch_put_other s.faults _ hk⟩
    · simp [hl, State.allCovered_iff.2 all]
    · cases hl : f.link with
      | waiting d =>
        obtain ⟨col, held, bare⟩ := stays.resolve_left fun none => none d hl
        refine if_neg fun all => ?_
        rw [State.allCovered_iff.1 all col held] at bare
        exact Bool.noConfusion bare
      | suppressed | called _ | pending _ => rfl
  case whole =>
    intro s st c cs sorted
    refine ⟨fun absent => State.clearFault_absent absent, fun f hf all => ?_⟩
    have cleared := State.clearFault_whole hf all
    refine ⟨s.faults.remove (faultKey st c), Table.fetch_remove_same sorted _,
      fun k hk => Table.fetch_remove_other _ hk, fun hl => ?_, fun m hl => ?_, fun n q hl hq resolved => ?_,
      fun n q hl hq standing => ⟨_, ?_, Table.fetch_put_same s.callouts n _,
        fun k hk => Table.fetch_put_other s.callouts _ hk⟩⟩
    · rw [cleared, State.removeFault]
      rcases hl with hl | ⟨d, hl⟩ <;> simp only [hl]
    · simp only [cleared, State.removeFault, hl]
    · simp only [cleared, State.removeFault, hl]
      rw [State.resolveCallout_resolved (s := { s with faults := s.faults.remove (faultKey st c) }) hq resolved]
    · simp only [cleared, State.removeFault, hl]
      rw [State.resolveCallout_resolves (s := { s with faults := s.faults.remove (faultKey st c) }) hq standing,
        State.floorOf_eq]
  case derived =>
    intro s st x new hx hnew
    rw [← State.derivedState_eq] at hnew
    subst hnew
    refine ⟨fun set => State.faultsChanged_set hx set, fun probation parked same => ?_,
      fun probation parked other => ⟨_, ?_, State.updateStation_fetch hx (fun x => { x with state := s.derivedState st }),
        fun k hk => Table.fetch_update_other s.stations _ hk⟩⟩
    · rw [State.faultsChanged_derived hx probation parked, if_pos same.symm]
    · rw [State.faultsChanged_derived hx probation parked, if_neg (Ne.symm other)]
      rfl

end Sys2Proof.Machine
end

section
/-! PROOF. The deadlines of a job and of its queue entry (R50, R58, R60, R100 to R102). -/

namespace Sys2Proof.Machine

section
variable {s : State} {j : Job} {c : Charging}

/-! ### The hold deadline -/

theorem Job.unreleased_iff : j.unreleased = true ↔ j.state = .receiving ∨ j.state = .held := by simp [Job.unreleased]

theorem State.expireIfPassed_stays {h : Nat} (named : s.jobNamed h = some j)
    (stays : ¬ (j.state = .receiving ∨ j.state = .held) ∨ s.clock < j.holdDeadline) : s.expireIfPassed h = s := by
  simp only [State.expireIfPassed, named]
  refine if_neg fun expires => ?_
  rw [Bool.and_eq_true, Job.unreleased_iff, decide_eq_true_eq] at expires
  exact stays.elim (fun released => released expires.1) (fun early => Nat.not_le.2 early expires.2)

theorem State.expireIfPassed_expires {h : Nat} (named : s.jobNamed h = some j)
    (unreleased : j.state = .receiving ∨ j.state = .held) (passed : j.holdDeadline ≤ s.clock) :
    s.expireIfPassed h = (s.deleteJob j).notify (.jobExpired j.handle j.owner j.spoolRef) := by
  simp only [State.expireIfPassed, named]
  exact if_pos (by rw [Job.unreleased_iff.2 unreleased, decide_eq_true passed]; rfl)

/-! ### The job sent back -/

theorem Job.returned_unreleased (j : Job) : j.returned.state = .receiving ∨ j.returned.state = .held := by
  cases h : j.committed <;> simp [Job.returned, Job.returnState, h]

/-- A job sent back, before its hold deadline is looked at (R50). -/
def State.returnedWith (s : State) (st : Nat) (j : Job) (c : Charging) (notice : NoticeBody) : State :=
  (((s.removeEntry st j.handle).unreserve j.owner j.tenant c.reservation).updateJob j.handle Job.returned).notify notice

theorem State.sendBack_eq (hc : j.charging = some c) (st : Nat) (notice : NoticeBody) :
    s.sendBack st j notice = (s.returnedWith st j c notice).expireIfPassed j.handle := by
  simp only [State.sendBack, State.releaseReservation, hc]
  rfl

theorem State.returnedWith_named (named : s.jobNamed j.handle = some j) (st : Nat) (c : Charging) (notice : NoticeBody) :
    (s.returnedWith st j c notice).jobNamed j.handle = some j.returned := by
  rw [State.returnedWith, State.notify_jobNamed]
  have before : ((s.removeEntry st j.handle).unreserve j.owner j.tenant c.reservation).jobNamed j.handle = some j := named
  have generation := (State.jobNamed_parts before).2
  simp only [State.jobNamed, State.updateJob_fetch_named before]
  exact if_pos generation

theorem State.returnedWith_clock (s : State) (st : Nat) (j : Job) (c : Charging) (notice : NoticeBody) :
    (s.returnedWith st j c notice).clock = s.clock := by simp [State.returnedWith]

/-! ### The deadlines of an entry -/

theorem State.isDue_early {d : Option Nat} (h : ∀ m, d = some m → s.clock < m) : s.isDue d = false :=
  Bool.eq_false_iff.2 fun due => by
    obtain ⟨m, hm, reached⟩ := State.isDue_iff.1 due
    exact Nat.not_le.2 (h m hm) reached

section
variable {slot : Nat} {e : Entry} (he : s.entryOfSlot slot = some (j, c, e))
include he

theorem State.commitFallsDue_early (h : ∀ m, e.commitDeadline = some m → s.clock < m) : s.commitFallsDue slot = s := by
  simp [State.commitFallsDue, he, State.isDue_early h]

theorem State.commitFallsDue_lapses (due : s.isDue e.commitDeadline = true) (uncommitted : j.committed = false) :
    s.commitFallsDue slot =
      (s.sendBack c.station j (.commitLapsed j.handle j.owner j.spoolRef c.station)).sendCheck c.station := by
  simp [State.commitFallsDue, he, due, uncommitted]

theorem State.startFallsDue_early (h : ∀ m, e.startDeadline = some m → s.clock < m) : s.startFallsDue slot = s := by
  simp [State.startFallsDue, he, State.isDue_early h]

theorem State.startFallsDue_returns (due : s.isDue e.startDeadline = true) (kept : j.cancelRequested = false)
    (named : s.jobNamed j.handle = some j) :
    s.startFallsDue slot = ((s.withdraw c.station j).sendBack c.station j
      (.jobReturned j.handle j.owner j.spoolRef c.station (if j.committed then .held else .receiving)
        .noStart)).sendCheck c.station := by
  have after : (s.withdraw c.station j).jobNamed j.handle = some j := named
  simp only [State.startFallsDue, he, due, kept, if_true, Bool.false_eq_true, if_false]
  rw [State.returnEntry_named after rfl]

theorem State.startFallsDue_drops (hc : j.charging = some c) (due : s.isDue e.startDeadline = true)
    (cancelled : j.cancelRequested = true) :
    s.startFallsDue slot = (((((s.withdraw c.station j).removeEntry c.station j.handle).unreserve j.owner j.tenant
      c.reservation).deleteJob j).notify (.jobDeleted j.handle j.owner j.spoolRef .cancel)).sendCheck c.station := by
  simp only [State.startFallsDue, he, due, cancelled, if_true, State.dropCancelled, State.releaseReservation, hc]

theorem State.abandonFallsDue_early (h : ∀ m, e.abandonDeadline = some m → s.clock < m) :
    s.abandonFallsDue slot = s := by
  simp [State.abandonFallsDue, he, State.isDue_early h]

theorem State.abandonFallsDue_settles (due : s.isDue e.abandonDeadline = true) :
    s.abandonFallsDue slot = (s.withdraw c.station j).endJob c.station j c (j.progress.getD {})
      (fun charge n => .jobAbandoned j.handle j.owner j.spoolRef c.station charge n c.fallback
        (s.blockingClasses c.station)) := by
  simp only [State.abandonFallsDue, he, due, if_true]

end

end

/-- Settles O54: the hold deadline and the return by the clock, and the three deadlines of an entry. -/
theorem jobDeadlinesFallDue : Obligations.JobDeadlinesFallDue := by
  refine ⟨?hold, ?back, ?entry⟩
  case hold =>
    intro s slot j running hj named
    have ran : exec (.holdDeadline slot) s = .next (s.expireIfPassed j.handle) :=
      (congrArg Host.Outcome.next (State.whileRunning_run running (fun s => s.fallsDue (.hold slot)))).trans
        (by simp only [State.fallsDue, State.holdFallsDue, hj])
    refine ⟨fun stays => ran.trans (congrArg _ (State.expireIfPassed_stays named ?_)),
      fun unreleased passed => ran.trans (congrArg _ (State.expireIfPassed_expires named unreleased passed))⟩
    rcases stays with queued | printing | early
    · exact .inl (by simp [queued])
    · exact .inl (by simp [printing])
    · exact .inr early
  case back =>
    intro s b w st j c notice hc named hb hw
    have back : s.sendBack st j notice = b.expireIfPassed j.handle := hb ▸ State.sendBack_eq hc st notice
    have standing : b.jobNamed j.handle = some j.returned := hb ▸ State.returnedWith_named named st c notice
    have clock : b.clock = s.clock := hb ▸ State.returnedWith_clock s st j c notice
    refine ⟨fun early => back.trans (State.expireIfPassed_stays standing (.inr (clock ▸ early))), fun passed => ?_⟩
    rw [back, State.expireIfPassed_expires standing j.returned_unreleased (clock ▸ passed), hw]
    rfl
  case entry =>
    intro s slot j c x e running hj hc hx he named
    have entry : s.entryOfSlot slot = some (j, c, e) := by rw [State.entryOfSlot_eq hj hc hx, he]; rfl
    have due {d : Option Nat} {m : Nat} (hd : d = some m) (reached : m ≤ s.clock) : s.isDue d = true :=
      State.isDue_iff.2 ⟨m, hd, reached⟩
    have commits : exec (.commitDeadline slot) s = .next (s.commitFallsDue slot) :=
      congrArg Host.Outcome.next (State.whileRunning_run running (fun s => s.fallsDue (.commit slot)))
    have starts : exec (.startDeadline slot) s = .next (s.startFallsDue slot) :=
      congrArg Host.Outcome.next (State.whileRunning_run running (fun s => s.fallsDue (.start slot)))
    have abandons : exec (.abandonDeadline slot) s = .next (s.abandonFallsDue slot) :=
      congrArg Host.Outcome.next (State.whileRunning_run running (fun s => s.fallsDue (.abandon slot)))
    exact ⟨fun early => commits.trans (congrArg _ (State.commitFallsDue_early entry early)),
      fun m hm reached open_ => commits.trans (congrArg _ (State.commitFallsDue_lapses entry (due hm reached) open_)),
      fun early => starts.trans (congrArg _ (State.startFallsDue_early entry early)),
      fun m hm reached =>
        ⟨fun kept => starts.trans (congrArg _ (State.startFallsDue_returns entry (due hm reached) kept named)),
          fun dropped => starts.trans (congrArg _ (State.startFallsDue_drops entry hc (due hm reached) dropped))⟩,
      fun early => abandons.trans (congrArg _ (State.abandonFallsDue_early entry early)),
      fun m hm reached => abandons.trans (congrArg _ (State.abandonFallsDue_settles entry (due hm reached)))⟩

end Sys2Proof.Machine
end

section
/-! PROOF. The due minutes of faults and reorders and the tier deadlines of callouts (R105, R140, R151, R155, R158),
and a callout that falls due (R151, R156, R161). -/

namespace Sys2Proof.Machine

theorem Policy.timeout_eq (p : Policy) (tier : Nat) :
    p.timeout tier = if tier = 1 then p.t1 else if tier = 2 then p.t2 else p.t3 := by
  match tier with
  | 0 | 1 | 2 => rfl
  | n + 3 => simp [Policy.timeout]

section
variable {s : State}

/-! ### A fault's due minute -/

section
variable {st : Nat} {c : FaultClass} {f : FaultEntry} (hf : s.faultAt st c = some f)
include hf

theorem State.faultFallsDue_early (h : ∀ m, f.link = .waiting (some m) → s.clock < m) : s.faultFallsDue st c = s := by
  unfold State.faultFallsDue
  simp only [hf]
  cases hl : f.link with
  | waiting d => simp [State.isDue_early fun m hm => h m (hl.trans (congrArg _ hm))]
  | suppressed | called _ | pending _ => rfl

theorem State.faultFallsDue_due {m : Nat} (hl : f.link = .waiting (some m)) (reached : m ≤ s.clock) :
    s.faultFallsDue st c = if userClearable c then (s.fallDue st c).clearWindowEnds st else s.fallDue st c := by
  simp only [State.faultFallsDue, hf, hl, State.isDue_iff.2 ⟨m, rfl, reached⟩, if_true]

end

/-! ### A tier deadline -/

section
variable {n : Nat} {x : Callout} (hx : s.callouts.fetch n = some x)
include hx

theorem State.tierFallsDue_idle (h : x.state ≠ .opened ∨ ∀ m, x.deadline = some m → s.clock < m) :
    s.tierFallsDue n = s := by
  simp only [State.tierFallsDue, hx]
  refine if_neg fun due => ?_
  rw [Bool.and_eq_true, decide_eq_true_eq] at due
  rcases h with other | early
  · exact other due.1
  · rw [State.isDue_early early] at due
    exact Bool.noConfusion due.2

variable {m : Nat} (opened : x.state = .opened) (hm : x.deadline = some m) (reached : m ≤ s.clock)
include opened hm reached

theorem State.tierFallsDue_escalates (low : x.tier < 3) :
    s.tierFallsDue n = ({ s with
        callouts := s.callouts.put n
          { x with tier := x.tier + 1, deadline := some (s.minuteAfter (s.policy.timeout (x.tier + 1))) } } :
      State).notify (.calloutEscalated n x.station (s.floorOf x.station) x.cls (x.tier + 1) x.recurrence) := by
  simp only [State.tierFallsDue, hx]
  rw [if_pos (by rw [opened, State.isDue_iff.2 ⟨m, hm, reached⟩]; rfl), if_pos low]

theorem State.tierFallsDue_stalls (top : 3 ≤ x.tier) :
    s.tierFallsDue n = ({ s with
        callouts := s.callouts.put n { x with state := .stalled, deadline := none } } : State).notify
      (.calloutStalled n x.station (s.floorOf x.station) x.cls x.tier x.opened x.recurrence false) := by
  simp only [State.tierFallsDue, hx]
  rw [if_pos (by rw [opened, State.isDue_iff.2 ⟨m, hm, reached⟩]; rfl), if_neg (Nat.not_lt.2 top)]

end

/-! ### A reorder's due minute -/

section
variable {n : Nat} {r : Reorder} (hr : s.reorderAt n = some r)
include hr

theorem State.reorderFallsDue_idle (h : r.state ≠ .placed ∨ r.overdue = true ∨ ∀ m, r.due = some m → s.clock < m) :
    s.reorderFallsDue n = s := by
  simp only [State.reorderFallsDue, hr]
  cases hd : r.due with
  | none => rfl
  | some d =>
    refine if_neg fun due => ?_
    simp only [Bool.and_eq_true, decide_eq_true_eq, Bool.not_eq_true'] at due
    obtain ⟨⟨placed, fresh⟩, reached⟩ := due
    rcases h with other | old | early
    · exact other placed
    · rw [fresh] at old; exact Bool.noConfusion old
    · exact Nat.not_le.2 (early d hd) reached

theorem State.reorderFallsDue_overdue {m : Nat} (placed : r.state = .placed) (fresh : r.overdue = false)
    (hd : r.due = some m) (reached : m ≤ s.clock) :
    s.reorderFallsDue n = ((s.updateReorder n (fun o => { o with overdue := true })).notify
      (.reorderOverdue n r.station r.colour r.tenant m)).suppressionEnds r.station r.colour := by
  simp [State.reorderFallsDue, hr, hd, placed, fresh, reached]

end

/-! ### The end of a suppression -/

theorem State.suppressionEnds_due {st : Nat} {col : Toner} {f : FaultEntry} (hf : s.faultAt st .toner = some f)
    (hl : f.link = .suppressed) (holds : f.colours.contains col = true) :
    s.suppressionEnds st col = s.fallDue st .toner := by
  simp [State.suppressionEnds, hf, hl, holds]

theorem State.suppressionEnds_idle {st : Nat} {col : Toner}
    (h : ∀ f, s.faultAt st .toner = some f → f.link ≠ .suppressed ∨ f.colours.contains col = false) :
    s.suppressionEnds st col = s := by
  unfold State.suppressionEnds
  cases hf : s.faultAt st .toner with
  | none => rfl
  | some f =>
    simp only []
    cases hl : f.link with
    | suppressed => simp [(h f hf).resolve_left (not_not.2 hl)]
    | waiting _ | called _ | pending _ => rfl

end

/-- Settles O55: the three deadlines by what the clock has reached, a callout that falls due by what its table holds, and
the end of a suppression. -/
theorem otherDeadlinesFallDue : Obligations.OtherDeadlinesFallDue := by
  refine ⟨?fault, ?tier, ?reorder, ?falls, fun s st col => ⟨fun f hf hl holds => State.suppressionEnds_due hf hl holds,
    fun quiet => State.suppressionEnds_idle quiet⟩⟩
  case fault =>
    intro s st c f running hf
    have ran : exec (.faultDueMinute st c) s = .next (s.faultFallsDue st c) :=
      congrArg Host.Outcome.next (State.whileRunning_run running (fun s => s.fallsDue (.fault st c)))
    refine ⟨fun early => ran.trans (congrArg _ (State.faultFallsDue_early hf early)), fun m hl reached => ?_⟩
    rw [ran, State.faultFallsDue_due hf hl reached]
    exact ⟨fun user => congrArg _ (if_pos (userClearable_iff.2 user)),
      fun other => congrArg _ (if_neg (by rw [userClearable_iff]; rcases other with h | h | h <;> simp [h]))⟩
  case tier =>
    intro s n x running hx
    have ran : exec (.tierDeadline n) s = .next (s.tierFallsDue n) :=
      congrArg Host.Outcome.next (State.whileRunning_run running (fun s => s.fallsDue (.tier n)))
    refine ⟨fun idle => ran.trans (congrArg _ (State.tierFallsDue_idle hx idle)),
      fun m floor opened hm reached hfloor => ?_⟩
    rw [← State.floorOf_eq] at hfloor
    subst hfloor
    by_cases low : x.tier < 3
    · refine ⟨_, fun k hk => Table.fetch_put_other s.callouts _ hk, fun _ =>
        ⟨ran.trans (congrArg _ (State.tierFallsDue_escalates hx opened hm reached low)), fun first => ?_⟩,
        fun top => absurd low (Nat.not_lt.2 top)⟩
      have timeout : s.policy.timeout (x.tier + 1) = if x.tier = 1 then s.policy.t2 else s.policy.t3 := by
        have : x.tier = 1 ∨ x.tier = 2 := by omega
        rcases this with h | h <;> rw [h] <;> rfl
      rw [Table.fetch_put_same, ← timeout]
      rfl
    · exact ⟨_, fun k hk => Table.fetch_put_other s.callouts _ hk, fun is => absurd is low, fun top =>
        ⟨ran.trans (congrArg _ (State.tierFallsDue_stalls hx opened hm reached top)), Table.fetch_put_same _ _ _⟩⟩
  case reorder =>
    intro s n r running hr
    have ran : exec (.reorderDueMinute n) s = .next (s.reorderFallsDue n) :=
      congrArg Host.Outcome.next (State.whileRunning_run running (fun s => s.fallsDue (.reorder n)))
    exact ⟨fun idle => ran.trans (congrArg _ (State.reorderFallsDue_idle hr idle)), fun m placed fresh hd reached =>
      ran.trans (congrArg _ (State.reorderFallsDue_overdue hr placed fresh hd reached))⟩
  case falls =>
    intro s st c f floor cs hf hfloor hcs
    rw [← State.floorOf_eq] at hfloor
    subst hfloor hcs
    have linked (l : CalloutLink) := State.setLink_faultAt hf l
    have others (l : CalloutLink) (k : Nat) (hk : k ≠ st * 8 + classCode c) :
        (s.setLink st c l).faults.fetch k = s.faults.fetch k := Table.fetch_update_other s.faults _ hk
    refine ⟨fun n deadline recurrence x hx hd hrec => ?_, fun lone => ?_⟩
    · rw [← Policy.timeout_eq] at hd
      subst hd hrec
      exact ⟨_, _, State.fallDue_recurs hf hx, linked (.called n), others (.called n), Table.fetch_put_same _ _ _,
        fun k hk => Table.fetch_put_other s.callouts _ hk⟩
    · by_cases room : s.callouts.length < 48
      · exact ⟨_, others (.called s.nextCallout), fun _ free => ⟨_, State.fallDue_opens hf lone room free,
          linked (.called s.nextCallout), Table.fetch_put_same _ _ _,
          fun k hk => Table.fetch_put_other s.callouts _ hk⟩, fun full => absurd room (Nat.not_lt.2 full)⟩
      · exact ⟨_, others (.pending s.clock), fun is => absurd is room, fun full =>
          ⟨State.fallDue_pends lone full, linked (.pending s.clock)⟩⟩

end Sys2Proof.Machine
end
